-- ==== Sys2Proof/Word.lean ====
section
/-! DEFINITION. The word types of the block: bytes, 16-bit indexes and 32-bit host words (00_scope.md R6). -/

namespace Sys2Proof

/-- A byte of a frame or of a queue (R6). -/
abbrev Byte := BitVec 8

/-- A 16-bit object index (R60) or the BAUDDIV register (R24). -/
abbrev Half := BitVec 16

/-- A 32-bit host register (R20, R66). -/
abbrev Word := BitVec 32

end Sys2Proof
end

