-- ==== Sys2Proof/Config.lean ====
section
/-! DEFINITION. The parameters of the block that the spec leaves OPEN (00_scope.md R5, 70_reset_and_hazards.md R324).
They are arguments of the model: a record `Params` that every state carries and no step changes. The one instance
that `State.reset` has to name takes them from constants without a body, so nothing can be proved of their values. -/

namespace Sys2Proof

/-- One entry of the object-dictionary ROM: `(index:16, sub:8, len:3)` (R46, R110). -/
structure OdEntry where
  index : Half
  sub : Byte
  len : BitVec 3
deriving DecidableEq, Repr, Inhabited

/-- The object-dictionary ROM: fifteen entries in selector order 0 to 14 (R81, R110 to R125). -/
structure OdTable where
  controlWord : OdEntry
  statusWord : OdEntry
  operationMode : OdEntry
  actualPosition : OdEntry
  targetPosition : OdEntry
  actualSpeed : OdEntry
  targetSpeed : OdEntry
  actualCurrent : OdEntry
  targetCurrent : OdEntry
  currentLimit : OdEntry
  posSoftLimit : OdEntry
  negSoftLimit : OdEntry
  speedLimit : OdEntry
  errorCodeLow : OdEntry
  errorCodeHigh : OdEntry
deriving DecidableEq, Repr, Inhabited

/-- The parameters of R5 that a rule of the block reads. A queue depth `none` is an infinite queue. -/
structure Params where
  od : OdTable
  wack : Byte
  timeoutReset : Word
  baudDivReset : Half
  urxqDepth : Option Nat
  crxqDepth : Option Nat
deriving DecidableEq, Repr, Inhabited

/-- The length hint is one of 0, 1, 2, 4 (R110). -/
def OdEntry.hintLegal (e : OdEntry) : Bool :=
  e.len = 0#3 || e.len = 1#3 || e.len = 2#3 || e.len = 4#3

/-- The length hint may be written by a motor command: one of 1, 2, 4 (R126). -/
def OdEntry.writable (e : OdEntry) : Bool :=
  e.len = 1#3 || e.len = 2#3 || e.len = 4#3

/-- The well-formedness condition of R126: the four entries the motor commands write have a hint of 1, 2 or 4. -/
def OdTable.wellFormed (t : OdTable) : Bool :=
  t.controlWord.writable && t.operationMode.writable && t.targetPosition.writable && t.targetSpeed.writable

/-- The constraints R5 puts on the parameters: `WACK != 0x80`, `URXQ_DEPTH >= 10`, `CRXQ_DEPTH >= 1`. -/
def Params.legal (p : Params) : Bool :=
  p.wack ≠ 0x80#8 &&
  (match p.urxqDepth with | none => true | some d => decide (10 ≤ d)) &&
  (match p.crxqDepth with | none => true | some d => decide (1 ≤ d))

/-- OPEN parameter `OD_TABLE` of the instance behind `State.reset` (R5, R110). Log 1. -/
opaque Config.odRaw : OdTable

/-- OPEN parameter `WACK` before its constraint (R5, R94). Log 2. -/
opaque Config.wackRaw : Byte

/-- OPEN parameter `URXQ_DEPTH`: how much it exceeds its least value 10; `none` is infinite (R5, R42). Log 2. -/
opaque Config.urxqSpare : Option Nat

/-- OPEN parameter `CRXQ_DEPTH`: how much it exceeds its least value 1; `none` is infinite (R5, R43). Log 2. -/
opaque Config.crxqSpare : Option Nat

/-- What the host makes of a speed `x` divided by a conversion factor that is 0: the spec leaves the factors open and does
not say (46_host_units_facade.md R261). A free value of the host software. Log 20. -/
opaque Config.quotientByZero (x : Rat) : Rat

/-- `WACK`, any byte but 0x80 (R5, R94): the constraint by construction. Log 2. -/
def Config.wack : Byte :=
  if Config.wackRaw = 0x80#8 then 0x60#8 else Config.wackRaw

/-- An entry whose hint is one of the four legal ones (R110): the others are read as hint 0. Log 2. -/
def Config.legalEntry (e : OdEntry) : OdEntry :=
  if e.hintLegal then e else { e with len := 0#3 }

/-- `OD_TABLE` with every length hint one of 0, 1, 2, 4 (R110): the constraint by construction. Log 2. -/
def Config.odTable : OdTable :=
  { controlWord := Config.legalEntry Config.odRaw.controlWord
    statusWord := Config.legalEntry Config.odRaw.statusWord
    operationMode := Config.legalEntry Config.odRaw.operationMode
    actualPosition := Config.legalEntry Config.odRaw.actualPosition
    targetPosition := Config.legalEntry Config.odRaw.targetPosition
    actualSpeed := Config.legalEntry Config.odRaw.actualSpeed
    targetSpeed := Config.legalEntry Config.odRaw.targetSpeed
    actualCurrent := Config.legalEntry Config.odRaw.actualCurrent
    targetCurrent := Config.legalEntry Config.odRaw.targetCurrent
    currentLimit := Config.legalEntry Config.odRaw.currentLimit
    posSoftLimit := Config.legalEntry Config.odRaw.posSoftLimit
    negSoftLimit := Config.legalEntry Config.odRaw.negSoftLimit
    speedLimit := Config.legalEntry Config.odRaw.speedLimit
    errorCodeLow := Config.legalEntry Config.odRaw.errorCodeLow
    errorCodeHigh := Config.legalEntry Config.odRaw.errorCodeHigh }

/-- The instance of the parameters that `State.reset` is built from. `timeoutReset` 200 and `baudDivReset` 0 are
DESIGN CHOICES (R23, R24 leave them open), unsafe for claims about runs from reset that read them. Log 3. -/
def Config.board : Params :=
  { od := Config.odTable
    wack := Config.wack
    timeoutReset := 200#32
    baudDivReset := 0#16
    urxqDepth := Config.urxqSpare.map (· + 10)
    crxqDepth := Config.crxqSpare.map (· + 1) }

end Sys2Proof
end

