-- ==== Sys2Proof/Syntax.lean ====
section
/-! DEFINITION. The syntax of the block: the logical SDO frame, the UART frame, and one constructor of `Instr` for
each of the 26 rows of spec/opcode_table.json (30_encoding.md R80 to R101). -/

namespace Sys2Proof

/-- A logical frame: exactly eight bytes `[cmd, index_lo, index_hi, sub, p0, p1, p2, p3]` (R84). -/
structure SdoFrame where
  cmd : Byte
  indexLo : Byte
  indexHi : Byte
  sub : Byte
  p0 : Byte
  p1 : Byte
  p2 : Byte
  p3 : Byte
deriving DecidableEq, Repr

/-- A UART frame: exactly ten bytes, sync, logical frame, checksum (R95). Also the shape of TXBUF and RXBUF (R38, R39). -/
structure UartFrame where
  sync : Byte
  body : SdoFrame
  check : Byte
deriving DecidableEq, Repr

/-- The instructions: ten host commands (R80), nine logical frame kinds (R86 to R94), five UART frame kinds (R95)
and two CAN identifier classes (R96). Every bit of an encoding that is not fixed is an operand, the bits that the
block does not examine included. The reserved bits 31:24 of a host command are no operand: they are ignored and
stored as 0 (R83 d). -/
inductive Instr where
  /-- OPEN; REG and LEN are ignored (R218). -/
  | openConn (reg len : Byte)
  /-- CLOSE; REG and LEN are ignored (R219). -/
  | closeConn (reg len : Byte)
  /-- READ of OD selector REG; LEN is ignored (R216). -/
  | read (reg len : Byte)
  /-- WRITE of LEN bytes of ARG0 to OD selector REG (R217). -/
  | write (reg len : Byte)
  /-- RESET_ERROR (R232). -/
  | resetError (reg len : Byte)
  /-- QUICK_STOP (R233). -/
  | quickStop (reg len : Byte)
  /-- START_MOVE (R234). -/
  | startMove (reg len : Byte)
  /-- SET_TARGET_POSITION (R236). -/
  | setTargetPosition (reg len : Byte)
  /-- SET_TRAPEZOID_SPEED (R237). -/
  | setTrapezoidSpeed (reg len : Byte)
  /-- SET_POS_SPEED (R239). -/
  | setPosSpeed (reg len : Byte)
  /-- SDO.RD_REQ, read request (R86). -/
  | sdoRdReq (index : Half) (sub : Byte)
  /-- SDO.WR1_REQ, 1-byte write request (R87). -/
  | sdoWr1Req (index : Half) (sub : Byte) (v : Byte)
  /-- SDO.WR2_REQ, 2-byte write request (R88). -/
  | sdoWr2Req (index : Half) (sub : Byte) (v : Half)
  /-- SDO.WR4_REQ, 4-byte write request (R89). -/
  | sdoWr4Req (index : Half) (sub : Byte) (v : Word)
  /-- SDO.RD1_RSP, 1-byte read response; index, sub-index and `rest` (F[5..7]) are not examined (R90). -/
  | sdoRd1Rsp (index : Half) (sub : Byte) (v : Byte) (rest : BitVec 24)
  /-- SDO.RD2_RSP, 2-byte read response; index, sub-index and `rest` (F[6..7]) are not examined (R91). -/
  | sdoRd2Rsp (index : Half) (sub : Byte) (v : Half) (rest : Half)
  /-- SDO.RD4_RSP, 4-byte read response; index and sub-index are not examined (R92). -/
  | sdoRd4Rsp (index : Half) (sub : Byte) (v : Word)
  /-- SDO.ABORT, abort response with its 32-bit code (R93). -/
  | sdoAbort (index : Half) (sub : Byte) (code : Word)
  /-- SDO.WR_ACK, write acknowledgement; `ack` is F[0], the parameter WACK; the rest is not examined (R94). -/
  | sdoWrAck (ack : Byte) (index : Half) (sub : Byte) (rest : Word)
  /-- UART.RD_REQ, `Wrap(SDO.RD_REQ)`; `chk` is the checksum byte U[9] (R95). -/
  | uartRdReq (index : Half) (sub : Byte) (chk : Byte)
  /-- UART.WR1_REQ, `Wrap(SDO.WR1_REQ)` (R95). -/
  | uartWr1Req (index : Half) (sub : Byte) (v : Byte) (chk : Byte)
  /-- UART.WR2_REQ, `Wrap(SDO.WR2_REQ)` (R95). -/
  | uartWr2Req (index : Half) (sub : Byte) (v : Half) (chk : Byte)
  /-- UART.WR4_REQ, `Wrap(SDO.WR4_REQ)` (R95). -/
  | uartWr4Req (index : Half) (sub : Byte) (v : Word) (chk : Byte)
  /-- UART.RD_RSP: marker bytes U[1], U[2], then U[3], U[4] (not examined), value and checksum (R95). -/
  | uartRdRsp (mark0 mark1 indexHi sub : Byte) (v : Word) (chk : Byte)
  /-- CAN.REQ_ID, identifier 0x600 + node (R96). -/
  | canReqId (node : BitVec 7)
  /-- CAN.RSP_ID, identifier 0x580 + node (R96). -/
  | canRspId (node : BitVec 7)
deriving DecidableEq, Repr

/-- What a decoder must know beside the bits: the parameter WACK and the two marker registers (R101). -/
structure WireCtx where
  wack : Byte
  umark0 : Byte
  umark1 : Byte
deriving DecidableEq, Repr

end Sys2Proof
end

