-- ==== Sys2Proof/Machine/Bytes.lean ====
section
/-! DEFINITION. Byte-order helpers (00_scope.md R7), the byte view of frames, and the LRC generator, wrapper and
checksum validator (43_framed_codec.md R180 to R190). -/

namespace Sys2Proof

/-- Byte `i` of a value: the slice `v[8i+7 : 8i]` (R6, R7). -/
def byteAt {n : Nat} (v : BitVec n) (i : Nat) : Byte :=
  v.extractLsb' (8 * i) 8

/-- `from_le(B)`: the unsigned integer whose little-endian bytes are `B` (R7). -/
def fromLe : List Byte → Nat
  | [] => 0
  | b :: bs => b.toNat + 256 * fromLe bs

/-- `sint32(w)`: the two's-complement reading of a 32-bit pattern (R7). -/
def sint32 (w : Word) : Int := w.toInt

/-- The eight bytes of a logical frame in wire order (R65, R84). -/
def SdoFrame.bytes (f : SdoFrame) : List Byte :=
  [f.cmd, f.indexLo, f.indexHi, f.sub, f.p0, f.p1, f.p2, f.p3]

/-- The logical frame of eight bytes in wire order; none for another length (R84). -/
def SdoFrame.ofBytes? : List Byte → Option SdoFrame
  | [a, b, c, d, e, f, g, h] => some ⟨a, b, c, d, e, f, g, h⟩
  | _ => none

/-- The ten bytes of a UART frame in wire order (R95). -/
def UartFrame.bytes (u : UartFrame) : List Byte :=
  u.sync :: (u.body.bytes ++ [u.check])

/-- The UART frame of ten bytes in wire order; none for another length (R95). -/
def UartFrame.ofBytes? : List Byte → Option UartFrame
  | [s, a, b, c, d, e, f, g, h, k] => some ⟨s, ⟨a, b, c, d, e, f, g, h⟩, k⟩
  | _ => none

/-- Write of byte `i` of a ten-byte buffer: `x[RXBUF][i] <- b` (R39, R188). An index above 9 writes nothing. -/
def UartFrame.setByte (u : UartFrame) (i : Nat) (b : Byte) : UartFrame :=
  match i with
  | 0 => { u with sync := b }
  | 1 => { u with body := { u.body with cmd := b } }
  | 2 => { u with body := { u.body with indexLo := b } }
  | 3 => { u with body := { u.body with indexHi := b } }
  | 4 => { u with body := { u.body with sub := b } }
  | 5 => { u with body := { u.body with p0 := b } }
  | 6 => { u with body := { u.body with p1 := b } }
  | 7 => { u with body := { u.body with p2 := b } }
  | 8 => { u with body := { u.body with p3 := b } }
  | 9 => { u with check := b }
  | _ => u

/-- Ten zero bytes, the reset value of TXBUF and RXBUF (R50). -/
def UartFrame.zero : UartFrame := ⟨0, ⟨0, 0, 0, 0, 0, 0, 0, 0⟩, 0⟩

/-- The payload F[4..7] as the unsigned little-endian 32-bit value (R7, R64, R92). -/
def SdoFrame.payload (f : SdoFrame) : Word :=
  BitVec.ofNat 32 (fromLe [f.p0, f.p1, f.p2, f.p3])

/-- The UART sync byte, the same in both directions (R5, R182). -/
def syncByteValue : Byte := 0x7F#8

/-- The sum of a byte sequence modulo 256 (R180, R181). -/
def byteSum : List Byte → Byte
  | [] => 0
  | b :: bs => b + byteSum bs

/-- `LRC(B)`: `(256 - (sum mod 256)) mod 256` (R180). -/
def lrc (bs : List Byte) : Byte :=
  BitVec.ofNat 8 (256 - (byteSum bs).toNat)

/-- `Wrap(F)`: sync byte, the eight bytes of `F`, checksum (R182). -/
def wrap (f : SdoFrame) : UartFrame :=
  { sync := syncByteValue, body := f, check := lrc (syncByteValue :: f.bytes) }

/-- `lrc_ok(U)`: the checksum recomputed over the first nine bytes is the tenth (R190). -/
def lrcOk (u : UartFrame) : Bool :=
  lrc (u.sync :: u.body.bytes) = u.check

/-- `0x600 + node_id`, the identifier of requests (R96, R132). -/
def canReqIdOf (node : BitVec 7) : BitVec 11 :=
  0x600#11 + node.setWidth 11

/-- `0x580 + node_id`, the identifier of responses (R96, R134). -/
def canRspIdOf (node : BitVec 7) : BitVec 11 :=
  0x580#11 + node.setWidth 11

end Sys2Proof
end

