-- ==== Sys2Proof/Machine/State.lean ====
section
/-! DEFINITION. The architectural state of the block (10_state.md), the events that move it (20_memory.md R77), the
reasons a step can stop, and the state after reset (R50). -/

namespace Sys2Proof.Machine

/-- The transport selected by CTRL.TSEL and TSEL_ACT: 0 is CAN, 1 is UART (R21, R31). -/
inductive Transport where
  | can
  | uart
deriving DecidableEq, Repr

/-- PHASE: no command executing, about to run step SEQ, or in the receive phase of step SEQ (R37). -/
inductive Phase where
  | idle
  | issue
  | wait
deriving DecidableEq, Repr

/-- The six error kinds (60_exceptions.md R270). Code 0, no error, is `none` of `Option ErrKind`. -/
inductive ErrKind where
  | timeout
  | malformedResponse
  | checksumMismatch
  | deviceAbort
  | usageError
  | notConnected
deriving DecidableEq, Repr

/-- A frame queued in CRXQ: data length code and eight data bytes (R43). -/
structure CanData where
  dlc : BitVec 4
  data : SdoFrame
deriving DecidableEq, Repr

/-- A frame handed to the CAN controller: an entry of the trace CTX (R45, R132). -/
structure CanTx where
  id : BitVec 11
  dlc : BitVec 4
  data : SdoFrame
deriving DecidableEq, Repr

/-- The identifier of a frame on `can_rx`: standard (`ext = 0`, 11 bits) or extended (`ext = 1`, 29 bits) (R130). -/
inductive CanIdent where
  | std (id : BitVec 11)
  | ext (id : BitVec 29)
deriving DecidableEq, Repr

/-- A frame on `can_rx` (R130, R131). The data bytes at and beyond `dlc` are not part of the frame; the block records
them as 0 (R137). -/
structure CanRxFrame where
  ident : CanIdent
  rtr : Bool
  dlc : BitVec 4
  data : SdoFrame
deriving DecidableEq, Repr

/-- The atomic events of the block's agents (R77). -/
inductive Event where
  /-- `HostWrite(addr, data)` (R20). -/
  | hostWrite (addr : Nat) (data : Word)
  /-- `HostRead(addr)` (R20). -/
  | hostRead (addr : Nat)
  /-- One engine step, if it is enabled (R213). -/
  | engine
  /-- A byte arrives on `uart_rx` (R136). -/
  | uartRx (b : Byte)
  /-- A frame arrives on `can_rx` (R137). -/
  | canRx (f : CanRxFrame)
  /-- The timer reaches its deadline, if it may (R147). -/
  | timerExpire
  /-- The input `rst` is asserted (R300). -/
  | reset
deriving DecidableEq, Repr

/-- The state of the block. Every field names the rule that gives it. -/
structure State where
  /-- The parameters of the model, the OD ROM among them; no step changes them (R5, R46). Log 1. -/
  cfg : Params
  /-- CTRL.TSEL (R21). -/
  tsel : Transport
  /-- NODEID (R22). -/
  nodeId : BitVec 7
  /-- TIMEOUT, in ticks (R23). -/
  timeout : Word
  /-- BAUDDIV (R24). -/
  baudDiv : Half
  /-- UMARK0, UMARK[7:0] (R25). -/
  umark0 : Byte
  /-- UMARK1, UMARK[15:8] (R25). -/
  umark1 : Byte
  /-- CMD: OP, REG, LEN, bits [31:24] zero (R26). -/
  cmd : Word
  /-- ARG0 (R27). -/
  arg0 : Word
  /-- ARG1 (R28). -/
  arg1 : Word
  /-- STATUS.BUSY (R29). -/
  busy : Bool
  /-- STATUS.DONE (R29). -/
  done : Bool
  /-- STATUS.ERR (R29). -/
  err : Bool
  /-- STATUS.OPEN (R31). -/
  isOpen : Bool
  /-- STATUS.TSEL_ACT (R31). -/
  tselAct : Transport
  /-- STATUS.CMDOVR (R33). -/
  cmdOvr : Bool
  /-- STATUS.URXOVR (R33). -/
  urxOvr : Bool
  /-- STATUS.CRXOVR (R33). -/
  crxOvr : Bool
  /-- STATUS.ERRKIND (R32, R270). -/
  errKind : Option ErrKind
  /-- STATUS.ERRSTEP (R32). -/
  errStep : BitVec 4
  /-- RESULT (R34). -/
  result : Word
  /-- ABORTCODE (R35). -/
  abortCode : Word
  /-- SEQ (R36). -/
  seq : BitVec 2
  /-- PHASE (R37). -/
  phase : Phase
  /-- TXBUF[0..9] (R38). -/
  txBuf : UartFrame
  /-- RXBUF[0..9] (R39). -/
  rxBuf : UartFrame
  /-- RXCNT, 0 to 10 (R39). -/
  rxCnt : Nat
  /-- SYNCW, the sync detector's window, oldest byte first (R40). -/
  syncW : List Byte
  /-- URXQ, head first (R42). -/
  urxq : List Byte
  /-- CRXQ, head first (R43). -/
  crxq : List CanData
  /-- Timer ARMED (R44). -/
  armed : Bool
  /-- Timer TEXP (R44). -/
  texp : Bool
  /-- The trace UTX, oldest byte first (R45). -/
  utx : List Byte
  /-- The trace CTX, oldest frame first (R45). -/
  ctx : List CanTx
  /-- The MODEL's own field: the events that still happen, in order (R323). Log 4. -/
  schedule : List Event
  /-- The MODEL's own field: what the host has read, oldest first, an observation like UTX and CTX. Log 7. -/
  hostReads : List (Nat × Word)
deriving DecidableEq, Repr

/-- Why the machine stops. The spec's six error kinds are no stops: they complete the command (R276). -/
inductive Fault where
  /-- The engine is at a step that the command's micro-program does not have, or in a receive phase that its step does
  not have. Raised by the engine only; no run from reset reaches it and no rule of the spec gives it an effect.
  Safe: the model stops where nothing is specified. Log 13. -/
  | noCurrentStep
deriving DecidableEq, Repr

/-- Why a step has no meaning. -/
inductive Refusal where
  /-- An instruction of the opcode table that the model gives no meaning. Raised by no arm of this model.
  Safe: the model stops. -/
  | notModelled (mnemonic : String)
deriving DecidableEq, Repr

/-- The outcome of a step of this machine. -/
abbrev Result := Host.Outcome State Fault Refusal

/-- The state after reset of a block with parameters `p`, every entry of R50. -/
def State.resetOf (p : Params) : State where
  cfg := p
  tsel := .can
  nodeId := 0#7
  timeout := p.timeoutReset
  baudDiv := p.baudDivReset
  umark0 := 0x43#8
  umark1 := 0x63#8
  cmd := 0#32
  arg0 := 0#32
  arg1 := 0#32
  busy := false
  done := false
  err := false
  isOpen := false
  tselAct := .can
  cmdOvr := false
  urxOvr := false
  crxOvr := false
  errKind := none
  errStep := 0#4
  result := 0#32
  abortCode := 0#32
  seq := 0#2
  phase := .idle
  txBuf := UartFrame.zero
  rxBuf := UartFrame.zero
  rxCnt := 0
  syncW := []
  urxq := []
  crxq := []
  armed := false
  texp := false
  utx := []
  ctx := []
  schedule := []
  hostReads := []

/-- The machine right after reset (R50), with the parameters of `Config.board`. -/
def State.reset : State := State.resetOf Config.board

end Sys2Proof.Machine
end

