-- ==== Sys2Proof/Machine/Flags.lean ====
section
/-! DEFINITION. The flags: the STATUS word and its fields (10_state.md R29 to R33), the error-kind codes
(60_exceptions.md R270), and the sticky flags' write-one-to-clear (R33). -/

namespace Sys2Proof.Machine

/-- One bit as a word of width `n`. -/
def boolBits (n : Nat) (b : Bool) : BitVec n := if b then 1#n else 0#n

/-- The code of a transport in CTRL.TSEL and TSEL_ACT (R21, R29). -/
def Transport.bit : Transport → Bool
  | .can => false
  | .uart => true

/-- The transport a bit stands for (R21). -/
def Transport.ofBit (b : Bool) : Transport := if b then .uart else .can

/-- The STATUS.ERRKIND code of an error kind (R270). -/
def ErrKind.code : ErrKind → BitVec 4
  | .timeout => 1#4
  | .malformedResponse => 2#4
  | .checksumMismatch => 3#4
  | .deviceAbort => 4#4
  | .usageError => 5#4
  | .notConnected => 6#4

/-- The STATUS.ERRKIND field: 0 when there is no error (R29, R270). -/
def errCode : Option ErrKind → BitVec 4
  | none => 0#4
  | some k => k.code

/-- The STATUS word: bits 0 BUSY, 1 DONE, 2 ERR, 3 OPEN, 4 TSEL_ACT, 5 CMDOVR, 6 URXOVR, 7 CRXOVR, 11:8 ERRKIND,
15:12 ERRSTEP, 31:16 zero (R29). -/
def statusWord (s : State) : Word :=
  0#16 ++ s.errStep ++ errCode s.errKind ++ boolBits 1 s.crxOvr ++ boolBits 1 s.urxOvr ++ boolBits 1 s.cmdOvr ++
    boolBits 1 s.tselAct.bit ++ boolBits 1 s.isOpen ++ boolBits 1 s.err ++ boolBits 1 s.done ++ boolBits 1 s.busy

/-- A host write of `w` to STATUS: bits 5, 6 and 7 clear CMDOVR, URXOVR and CRXOVR, all other bits are ignored (R33). -/
def clearSticky (w : Word) (s : State) : State :=
  { s with
    cmdOvr := s.cmdOvr && !w.getLsbD 5
    urxOvr := s.urxOvr && !w.getLsbD 6
    crxOvr := s.crxOvr && !w.getLsbD 7 }

end Sys2Proof.Machine
end

