-- ==== Sys2Proof/Decode.lean ====
section
/-! DEFINITION. Decoders and the encoder of the block's three encoded interfaces (30_encoding.md): the host command
word, the logical SDO frames and their UART wrapper, and the CAN identifiers. Decoding is total and rejects by name.
The direction of a frame is part of how it is read: a request, a response to a read step, a response to a write step
(R97, R98, R104), so the decoder takes a `Wire` value that carries it. -/

namespace Sys2Proof

/-- Why bits are no instruction. -/
inductive DecodeError where
  /-- OP is not one of the ten of R80: reserved (R83 a). -/
  | reservedOp (op : Byte)
  /-- Byte 0 is none of the request command bytes 0x40, 0x2F, 0x2B, 0x23 (R86 to R89). -/
  | notARequest (cmd : Byte)
  /-- A byte that the request kind fixes at zero is not zero (R85, R101). -/
  | nonzeroPadding
  /-- The class byte is not acceptable for the response awaited (R97, R98). -/
  | unexpectedClass (cls : Byte)
  /-- Byte 0 of a UART frame is not 0x7F (R95). -/
  | notSync (b : Byte)
  /-- Bytes 1 and 2 of a UART response are not the markers (R99, R191). -/
  | markerMismatch (m0 m1 : Byte)
  /-- The identifier is neither 0x600 + n nor 0x580 + n (R96). -/
  | foreignId (id : BitVec 11)
  /-- The byte sequence does not have the length of its format: 8 or 10 for a frame (R100); for a host word or an
  identifier, which the spec gives as values and not as bytes, 4 or 2 by the model's choice (log 32). -/
  | wrongLength (n : Nat)
deriving DecidableEq, Repr

/-- The bits of one instruction together with the interface and direction they are seen on. -/
inductive Wire where
  /-- A word written to CMD (R80). -/
  | command (w : Word)
  /-- A logical frame the block sends (R86 to R89). -/
  | request (f : SdoFrame)
  /-- A logical frame received on CAN in the receive phase of a read step (R165). -/
  | readResponse (f : SdoFrame)
  /-- A logical frame received on CAN in the receive phase of a write step (R170). -/
  | writeResponse (f : SdoFrame)
  /-- A UART frame the block sends (R133). -/
  | uartRequest (u : UartFrame)
  /-- A UART frame the sync detector has assembled (R188). -/
  | uartResponse (u : UartFrame)
  /-- A standard CAN identifier (R96). -/
  | canId (id : BitVec 11)
deriving DecidableEq, Repr

/-! ### Host command words -/

/-- A host command word: OP [7:0], REG [15:8], LEN [23:16], bits [31:24] ignored (R80). -/
def decodeCommand (w : Word) : Except DecodeError Instr :=
  let op := byteAt w 0
  let reg := byteAt w 1
  let len := byteAt w 2
  if op = 0x01#8 then .ok (.openConn reg len)
  else if op = 0x02#8 then .ok (.closeConn reg len)
  else if op = 0x10#8 then .ok (.read reg len)
  else if op = 0x11#8 then .ok (.write reg len)
  else if op = 0x20#8 then .ok (.resetError reg len)
  else if op = 0x21#8 then .ok (.quickStop reg len)
  else if op = 0x22#8 then .ok (.startMove reg len)
  else if op = 0x23#8 then .ok (.setTargetPosition reg len)
  else if op = 0x24#8 then .ok (.setTrapezoidSpeed reg len)
  else if op = 0x25#8 then .ok (.setPosSpeed reg len)
  else .error (.reservedOp op)

/-! ### Logical frames -/

/-- The index field F[1..2], little-endian (R84). -/
def SdoFrame.index (f : SdoFrame) : Half := BitVec.ofNat 16 (fromLe [f.indexLo, f.indexHi])

/-- The two low payload bytes F[4..5], little-endian (R91). -/
def SdoFrame.payloadLow (f : SdoFrame) : Half := BitVec.ofNat 16 (fromLe [f.p0, f.p1])

/-- The two high payload bytes F[6..7]. -/
def SdoFrame.payloadHigh (f : SdoFrame) : Half := BitVec.ofNat 16 (fromLe [f.p2, f.p3])

/-- The three payload bytes F[5..7] that a 1-byte response leaves unexamined (R90). -/
def SdoFrame.payloadUpper (f : SdoFrame) : BitVec 24 := BitVec.ofNat 24 (fromLe [f.p1, f.p2, f.p3])

/-- A request frame: command byte 0x40, 0x2F, 0x2B or 0x23, fixed bytes zero (R86 to R89). -/
def decodeRequest (f : SdoFrame) : Except DecodeError Instr :=
  if f.cmd = 0x40#8 then
    if f.p0 = 0#8 ∧ f.p1 = 0#8 ∧ f.p2 = 0#8 ∧ f.p3 = 0#8 then .ok (.sdoRdReq f.index f.sub)
    else .error .nonzeroPadding
  else if f.cmd = 0x2F#8 then
    if f.p1 = 0#8 ∧ f.p2 = 0#8 ∧ f.p3 = 0#8 then .ok (.sdoWr1Req f.index f.sub f.p0)
    else .error .nonzeroPadding
  else if f.cmd = 0x2B#8 then
    if f.p2 = 0#8 ∧ f.p3 = 0#8 then .ok (.sdoWr2Req f.index f.sub f.payloadLow)
    else .error .nonzeroPadding
  else if f.cmd = 0x23#8 then .ok (.sdoWr4Req f.index f.sub f.payload)
  else .error (.notARequest f.cmd)

/-- A response in the receive phase of a read step: classes 0x4F, 0x4B, 0x43, 0x80 (R90 to R93, R97). -/
def decodeReadResponse (f : SdoFrame) : Except DecodeError Instr :=
  if f.cmd = 0x4F#8 then .ok (.sdoRd1Rsp f.index f.sub f.p0 f.payloadUpper)
  else if f.cmd = 0x4B#8 then .ok (.sdoRd2Rsp f.index f.sub f.payloadLow f.payloadHigh)
  else if f.cmd = 0x43#8 then .ok (.sdoRd4Rsp f.index f.sub f.payload)
  else if f.cmd = 0x80#8 then .ok (.sdoAbort f.index f.sub f.payload)
  else .error (.unexpectedClass f.cmd)

/-- A response in the receive phase of a write step: 0x80 first, then WACK (R93, R94, R98, R104). -/
def decodeWriteResponse (wack : Byte) (f : SdoFrame) : Except DecodeError Instr :=
  if f.cmd = 0x80#8 then .ok (.sdoAbort f.index f.sub f.payload)
  else if f.cmd = wack then .ok (.sdoWrAck f.cmd f.index f.sub f.payload)
  else .error (.unexpectedClass f.cmd)

/-! ### UART frames -/

/-- A UART request: sync byte, a request frame, a checksum byte (R95, R183). -/
def decodeUartRequest (u : UartFrame) : Except DecodeError Instr :=
  if u.sync = syncByteValue then
    match decodeRequest u.body with
    | .ok (.sdoRdReq index sub) => .ok (.uartRdReq index sub u.check)
    | .ok (.sdoWr1Req index sub v) => .ok (.uartWr1Req index sub v u.check)
    | .ok (.sdoWr2Req index sub v) => .ok (.uartWr2Req index sub v u.check)
    | .ok (.sdoWr4Req index sub v) => .ok (.uartWr4Req index sub v u.check)
    | .ok _ => .error (.notARequest u.body.cmd)
    | .error e => .error e
  else .error (.notSync u.sync)

/-- A UART response: sync byte and the two marker bytes (R95, R99, R191). The checksum is not looked at here. -/
def decodeUartResponse (umark0 umark1 : Byte) (u : UartFrame) : Except DecodeError Instr :=
  if u.sync = syncByteValue then
    if u.body.cmd = umark0 ∧ u.body.indexLo = umark1 then
      .ok (.uartRdRsp u.body.cmd u.body.indexLo u.body.indexHi u.body.sub u.body.payload u.check)
    else .error (.markerMismatch u.body.cmd u.body.indexLo)
  else .error (.notSync u.sync)

/-! ### CAN identifiers -/

/-- A response identifier: 0x580 under mask 0x780 (R96, R134). -/
def decodeResponseId (id : BitVec 11) : Except DecodeError Instr :=
  if id.extractLsb' 7 4 = 0b1011#4 then .ok (.canRspId (id.extractLsb' 0 7))
  else .error (.foreignId id)

/-- A CAN identifier: 0x600 or 0x580 under mask 0x780 (R96). -/
def decodeCanId (id : BitVec 11) : Except DecodeError Instr :=
  if id.extractLsb' 7 4 = 0b1100#4 then .ok (.canReqId (id.extractLsb' 0 7))
  else decodeResponseId id

/-! ### The whole decoder -/

/-- The decoder of all formats, total on every `Wire`. -/
def decode (c : WireCtx) : Wire → Except DecodeError Instr
  | .command w => decodeCommand w
  | .request f => decodeRequest f
  | .readResponse f => decodeReadResponse f
  | .writeResponse f => decodeWriteResponse c.wack f
  | .uartRequest u => decodeUartRequest u
  | .uartResponse u => decodeUartResponse c.umark0 c.umark1 u
  | .canId id => decodeCanId id

/-- A logical frame whose direction is not known, as in the opcode table: requests, read responses, then the
acknowledgement. The spec gives no order among these rows; where WACK is a request or read-response byte, or the byte of
the abort, that the first of them wins is the MODEL's choice. Log 33. -/
def decodeAnySdo (c : WireCtx) (f : SdoFrame) : Except DecodeError Instr :=
  match decodeRequest f with
  | .ok i => .ok i
  | .error (.notARequest _) =>
    match decodeReadResponse f with
    | .ok i => .ok i
    | .error _ => decodeWriteResponse c.wack f
  | .error e => .error e

/-- A UART frame whose direction is not known, as in the opcode table: the request rows, then the response row. The spec
gives no order among them; where UMARK0 is a request command byte (0x40, 0x2F, 0x2B, 0x23), so that a frame can match
both, that the request row wins is the MODEL's choice. `step` knows the direction and decodes only a response. Log 33. -/
def decodeAnyUart (c : WireCtx) (u : UartFrame) : Except DecodeError Instr :=
  match decodeUartRequest u with
  | .ok i => .ok i
  | .error (.notARequest _) => decodeUartResponse c.umark0 c.umark1 u
  | .error e => .error e

/-- The formats of the opcode table (R101). -/
inductive Format where
  | hcmd
  | sdo8
  | uart10
  | canid
deriving DecidableEq, Repr

/-- Decoding of a byte sequence of any length in a given format. Frames are in wire order (R65, R100). That a host command
word is four bytes and an identifier two, least significant byte first, is the MODEL's choice: R101 gives HCMD and CANID
rows as values of 32 and 11 bits, and R66 gives host registers no byte order. `step` decodes both as values
(`decodeCommand`, `decodeResponseId`), never as bytes. Log 32. -/
def decodeBytes (c : WireCtx) (fmt : Format) (bs : List Byte) : Except DecodeError Instr :=
  match fmt with
  | .hcmd =>
    if bs.length = 4 then decodeCommand (BitVec.ofNat 32 (fromLe bs)) else .error (.wrongLength bs.length)
  | .sdo8 =>
    match SdoFrame.ofBytes? bs with
    | some f => decodeAnySdo c f
    | none => .error (.wrongLength bs.length)
  | .uart10 =>
    match UartFrame.ofBytes? bs with
    | some u => decodeAnyUart c u
    | none => .error (.wrongLength bs.length)
  | .canid =>
    if bs.length = 2 ∧ fromLe bs < 2048 then decodeCanId (BitVec.ofNat 11 (fromLe bs))
    else .error (.wrongLength bs.length)

/-! ### The encoder -/

/-- A host command word with bits [31:24] zero (R80). -/
def commandWord (op reg len : Byte) : Word := 0#8 ++ len ++ reg ++ op

/-- A frame with the address fields F[1..3] filled (R85). -/
def addressed (cmd : Byte) (index : Half) (sub p0 p1 p2 p3 : Byte) : SdoFrame :=
  ⟨cmd, byteAt index 0, byteAt index 1, sub, p0, p1, p2, p3⟩

/-- SDO.RD_REQ (R86). -/
def rdReqFrame (index : Half) (sub : Byte) : SdoFrame := addressed 0x40#8 index sub 0#8 0#8 0#8 0#8

/-- SDO.WR1_REQ (R87). -/
def wr1ReqFrame (index : Half) (sub v : Byte) : SdoFrame := addressed 0x2F#8 index sub v 0#8 0#8 0#8

/-- SDO.WR2_REQ (R88). -/
def wr2ReqFrame (index : Half) (sub : Byte) (v : Half) : SdoFrame :=
  addressed 0x2B#8 index sub (byteAt v 0) (byteAt v 1) 0#8 0#8

/-- A frame whose payload is a 32-bit little-endian value: SDO.WR4_REQ (R89), SDO.RD4_RSP (R92), SDO.ABORT (R93)
and SDO.WR_ACK (R94). -/
def wordFrame (cmd : Byte) (index : Half) (sub : Byte) (v : Word) : SdoFrame :=
  addressed cmd index sub (byteAt v 0) (byteAt v 1) (byteAt v 2) (byteAt v 3)

/-- SDO.RD1_RSP (R90). -/
def rd1RspFrame (index : Half) (sub v : Byte) (rest : BitVec 24) : SdoFrame :=
  addressed 0x4F#8 index sub v (byteAt rest 0) (byteAt rest 1) (byteAt rest 2)

/-- SDO.RD2_RSP (R91). -/
def rd2RspFrame (index : Half) (sub : Byte) (v rest : Half) : SdoFrame :=
  addressed 0x4B#8 index sub (byteAt v 0) (byteAt v 1) (byteAt rest 0) (byteAt rest 1)

/-- UART.RD_RSP (R95). -/
def uartRspFrame (mark0 mark1 indexHi sub : Byte) (v : Word) (chk : Byte) : UartFrame :=
  ⟨syncByteValue, ⟨mark0, mark1, indexHi, sub, byteAt v 0, byteAt v 1, byteAt v 2, byteAt v 3⟩, chk⟩

/-- The encoder: the bits of an instruction on its interface (R80, R84 to R96). SDO.ABORT is given as a response to a
read step; the same frame answers a write step (R93). -/
def encode : Instr → Wire
  | .openConn reg len => .command (commandWord 0x01#8 reg len)
  | .closeConn reg len => .command (commandWord 0x02#8 reg len)
  | .read reg len => .command (commandWord 0x10#8 reg len)
  | .write reg len => .command (commandWord 0x11#8 reg len)
  | .resetError reg len => .command (commandWord 0x20#8 reg len)
  | .quickStop reg len => .command (commandWord 0x21#8 reg len)
  | .startMove reg len => .command (commandWord 0x22#8 reg len)
  | .setTargetPosition reg len => .command (commandWord 0x23#8 reg len)
  | .setTrapezoidSpeed reg len => .command (commandWord 0x24#8 reg len)
  | .setPosSpeed reg len => .command (commandWord 0x25#8 reg len)
  | .sdoRdReq index sub => .request (rdReqFrame index sub)
  | .sdoWr1Req index sub v => .request (wr1ReqFrame index sub v)
  | .sdoWr2Req index sub v => .request (wr2ReqFrame index sub v)
  | .sdoWr4Req index sub v => .request (wordFrame 0x23#8 index sub v)
  | .sdoRd1Rsp index sub v rest => .readResponse (rd1RspFrame index sub v rest)
  | .sdoRd2Rsp index sub v rest => .readResponse (rd2RspFrame index sub v rest)
  | .sdoRd4Rsp index sub v => .readResponse (wordFrame 0x43#8 index sub v)
  | .sdoAbort index sub code => .readResponse (wordFrame 0x80#8 index sub code)
  | .sdoWrAck ack index sub rest => .writeResponse (wordFrame ack index sub rest)
  | .uartRdReq index sub chk => .uartRequest ⟨syncByteValue, rdReqFrame index sub, chk⟩
  | .uartWr1Req index sub v chk => .uartRequest ⟨syncByteValue, wr1ReqFrame index sub v, chk⟩
  | .uartWr2Req index sub v chk => .uartRequest ⟨syncByteValue, wr2ReqFrame index sub v, chk⟩
  | .uartWr4Req index sub v chk => .uartRequest ⟨syncByteValue, wordFrame 0x23#8 index sub v, chk⟩
  | .uartRdRsp mark0 mark1 indexHi sub v chk => .uartResponse (uartRspFrame mark0 mark1 indexHi sub v chk)
  | .canReqId node => .canId (canReqIdOf node)
  | .canRspId node => .canId (canRspIdOf node)

/-- The bytes of the bits of an instruction, in the order `decodeBytes` reads them: frames in wire order (R65). A host
command word and an identifier are values that have no byte order (R66, R101); writing them as bytes, least significant
first and the identifier in two, is the MODEL's choice. Log 32. -/
def Wire.bytes : Wire → List Byte
  | .command w => [byteAt w 0, byteAt w 1, byteAt w 2, byteAt w 3]
  | .request f => f.bytes
  | .readResponse f => f.bytes
  | .writeResponse f => f.bytes
  | .uartRequest u => u.bytes
  | .uartResponse u => u.bytes
  | .canId id => [byteAt id 0, byteAt id 1]

/-! ### Words numbered as the opcode table numbers them -/

/-- The values the opcode table shows for the three parameters: WACK 0x60, UMARK0 0x43, UMARK1 0x63 (R101).
PRESUMED for WACK (R94: general knowledge): only `decodeTableWord` uses it. Log 17. -/
def WireCtx.table : WireCtx := ⟨0x60#8, 0x43#8, 0x63#8⟩

/-- The low `n` bytes of a number, the lowest first: a frame's byte 0 is bits 7 to 0 of its number. The MODEL's choice: R101
writes a 64- or 80-bit row as a byte string with byte 0 leftmost, and 98_reader.md numbers only rows of 32 bits or fewer.
Log 17. -/
def tableBytes : Nat → Nat → List Byte
  | 0, _ => []
  | n + 1, w => BitVec.ofNat 8 w :: tableBytes n (w / 256)

/-- The format that a width of the opcode table stands for: 64 bits SDO8, 80 bits UART10, 16 bits CANID when the
identifier class is one of the two of R96, and otherwise a host command word (R101). Log 17. -/
def tableFormat (nbits w : Nat) : Format :=
  if nbits = 64 then .sdo8
  else if nbits = 80 then .uart10
  else if nbits = 16 ∧ w < 2048 ∧ (w / 128 = 12 ∨ w / 128 = 11) then .canid
  else .hcmd

/-- How many bytes a format has. -/
def Format.size : Format → Nat
  | .hcmd => 4
  | .sdo8 => 8
  | .uart10 => 10
  | .canid => 2

/-- The instruction the decoder reads from bits numbered with bit 0 the least significant bit of the first byte. For the
SDO8 and UART10 rows that numbering is the MODEL's choice (the spec gives them as byte strings, R101): byte 0 is in the LOW
bits, so the row `4000000000000000` of SDO.RD_REQ is the number 0x40, and the number 0x4000000000000000 is a frame whose
byte 7 is 0x40, which no row matches. Log 17. -/
def decodeTableWord (nbits w : Nat) : Option Instr :=
  let fmt := tableFormat nbits w
  match decodeBytes WireCtx.table fmt (tableBytes fmt.size w) with
  | .ok i => some i
  | .error _ => none

end Sys2Proof
end

