-- ==== Sys2Proof/Machine/Codec.lean ====
section
/-! DEFINITION. The SDO codec (42_sdo_codec.md) and the decoder of UART read frames (43_framed_codec.md R192), as the
pure functions the engine calls. -/

namespace Sys2Proof.Machine

/-- A payload length that can be written: 1, 2 or 4 bytes (R67, R82). -/
inductive WriteLen where
  | one
  | two
  | four
deriving DecidableEq, Repr

/-- The length check: any other length is a usage error (R163). -/
def WriteLen.ofByte? (n : Byte) : Option WriteLen :=
  if n = 1#8 then some .one else if n = 2#8 then some .two else if n = 4#8 then some .four else none

/-- How many bytes a length is. -/
def WriteLen.bytes : WriteLen → Nat
  | .one => 1
  | .two => 2
  | .four => 4

/-- `wcmd(n)`, the write command byte (R161). -/
def wcmd : WriteLen → Byte
  | .one => 0x2F#8
  | .two => 0x2B#8
  | .four => 0x23#8

/-- `encode_read(index, sub)` (R160). -/
def encodeRead (index : Half) (sub : Byte) : SdoFrame :=
  ⟨0x40#8, byteAt index 0, byteAt index 1, sub, 0#8, 0#8, 0#8, 0#8⟩

/-- Payload byte `i` of a write of `n` bytes: byte `i` of the value below `n`, zero above (R85, R162). -/
def writeByte (v : Word) (n : WriteLen) (i : Nat) : Byte :=
  if i < n.bytes then byteAt v i else 0#8

/-- `encode_write(index, sub, v, n)` (R162). -/
def encodeWrite (index : Half) (sub : Byte) (v : Word) (n : WriteLen) : SdoFrame :=
  ⟨wcmd n, byteAt index 0, byteAt index 1, sub, writeByte v n 0, writeByte v n 1, writeByte v n 2, writeByte v n 3⟩

/-- What a response to a read step says (R165). -/
inductive ReadVerdict where
  | value (w : Word)
  | abort (code : Word)
  | malformed
deriving DecidableEq, Repr

/-- `decode_response(F)`: dispatch on the class byte; values are zero-extended (R165 to R169). -/
def decodeResponse (f : SdoFrame) : ReadVerdict :=
  if f.cmd = 0x4F#8 then .value (BitVec.ofNat 32 (fromLe [f.p0]))
  else if f.cmd = 0x4B#8 then .value (BitVec.ofNat 32 (fromLe [f.p0, f.p1]))
  else if f.cmd = 0x43#8 then .value f.payload
  else if f.cmd = 0x80#8 then .abort f.payload
  else .malformed

/-- What a response to a write step says (R170). -/
inductive WriteVerdict where
  | acknowledged
  | abort (code : Word)
  | malformed
deriving DecidableEq, Repr

/-- `classify_write(F)`: 0x80 first, then WACK (R170). -/
def classifyWrite (wack : Byte) (f : SdoFrame) : WriteVerdict :=
  if f.cmd = 0x80#8 then .abort f.payload
  else if f.cmd = wack then .acknowledged
  else .malformed

/-- `decode_uart(U)`: markers, value, checksum (R192). -/
def decodeUart (umark0 umark1 : Byte) (u : UartFrame) : Except ErrKind Word :=
  if u.body.cmd ≠ umark0 ∨ u.body.indexLo ≠ umark1 then .error .malformedResponse
  else if lrcOk u then .ok u.body.payload
  else .error .checksumMismatch

/-- What the sync detector knows after it has looked at its window: it needs another byte, or it has a match. -/
inductive SyncScan where
  | more (window : List Byte)
  | found (b0 b1 b2 : Byte)
deriving DecidableEq, Repr

/-- The sync detector between two reads (R186): bytes that are not 0x7F are dropped from the head; with three bytes the
markers are compared, and on a mismatch only the head is dropped. -/
def syncScan (umark0 umark1 : Byte) : List Byte → SyncScan
  | [] => .more []
  | b :: rest =>
    if b = syncByteValue then
      match rest with
      | [x, y] => if x = umark0 ∧ y = umark1 then .found b x y else syncScan umark0 umark1 rest
      | _ => .more (b :: rest)
    else syncScan umark0 umark1 rest

end Sys2Proof.Machine
end

