-- ==== Sys2Proof/Machine/Operands.lean ====
section
/-! DEFINITION. The operand forms: the OD lookup (40_object_dictionary.md R110), the micro-program of a command and
its steps (44_host_ops.md R212), and the step the engine is at. -/

namespace Sys2Proof

/-- `OD(r)` for `r` below 15; none for the reserved selectors (R81, R110). -/
def OdTable.lookup (t : OdTable) (r : Byte) : Option OdEntry :=
  if r = 0#8 then some t.controlWord
  else if r = 1#8 then some t.statusWord
  else if r = 2#8 then some t.operationMode
  else if r = 3#8 then some t.actualPosition
  else if r = 4#8 then some t.targetPosition
  else if r = 5#8 then some t.actualSpeed
  else if r = 6#8 then some t.targetSpeed
  else if r = 7#8 then some t.actualCurrent
  else if r = 8#8 then some t.targetCurrent
  else if r = 9#8 then some t.currentLimit
  else if r = 10#8 then some t.posSoftLimit
  else if r = 11#8 then some t.negSoftLimit
  else if r = 12#8 then some t.speedLimit
  else if r = 13#8 then some t.errorCodeLow
  else if r = 14#8 then some t.errorCodeHigh
  else none

/-- The ODPEEK word of an entry: index [15:0], sub-index [23:16], length hint [26:24], zero above (R46). -/
def OdEntry.peek (e : OdEntry) : Word := 0#5 ++ e.len ++ e.sub ++ e.index

namespace Machine

/-- One step of a micro-program: a remote read, or a remote write of the low `n` bytes of `v` (R212). -/
inductive MicroStep where
  | rd (r : Byte)
  | wr (r : Byte) (v : Word) (n : Byte)
deriving DecidableEq, Repr

/-- A motor command's write: value `v` to entry `r`, with the entry's own length hint (R231). -/
def hinted (t : OdTable) (r : Byte) (v : Word) : MicroStep :=
  match t.lookup r with
  | some e => .wr r v (e.len.setWidth 8)
  | none => .wr r v 0#8

/-- `prog(OP)` (R212): the micro-program of an instruction in a state; no steps for OPEN, CLOSE and for what is no
host command. -/
def prog (s : State) : Instr → List MicroStep
  | .openConn _ _ => []
  | .closeConn _ _ => []
  | .read reg _ => [.rd reg]
  | .write reg len => [.wr reg s.arg0 len]
  | .resetError _ _ => [hinted s.cfg.od 0#8 0x86#32]
  | .quickStop _ _ => [hinted s.cfg.od 0#8 0x0B#32]
  | .startMove _ _ =>
    [hinted s.cfg.od 0#8 0x2F#32, hinted s.cfg.od 2#8 0x01#32, hinted s.cfg.od 0#8 0x3F#32]
  | .setTargetPosition _ _ => [hinted s.cfg.od 4#8 s.arg0]
  | .setTrapezoidSpeed _ _ => [hinted s.cfg.od 6#8 s.arg0]
  | .setPosSpeed _ _ =>
    [hinted s.cfg.od 0#8 0x2F#32, hinted s.cfg.od 4#8 s.arg0, hinted s.cfg.od 6#8 s.arg1,
      hinted s.cfg.od 0#8 0x3F#32]
  | .sdoRdReq _ _ => []
  | .sdoWr1Req _ _ _ => []
  | .sdoWr2Req _ _ _ => []
  | .sdoWr4Req _ _ _ => []
  | .sdoRd1Rsp _ _ _ _ => []
  | .sdoRd2Rsp _ _ _ _ => []
  | .sdoRd4Rsp _ _ _ => []
  | .sdoAbort _ _ _ => []
  | .sdoWrAck _ _ _ _ => []
  | .uartRdReq _ _ _ => []
  | .uartWr1Req _ _ _ _ => []
  | .uartWr2Req _ _ _ _ => []
  | .uartWr4Req _ _ _ _ => []
  | .uartRdRsp _ _ _ _ _ _ => []
  | .canReqId _ => []
  | .canRspId _ => []

/-- `prog(x[CMD].OP)`: the micro-program of the command in CMD (R212, R213). -/
def currentProg (s : State) : List MicroStep :=
  match decodeCommand s.cmd with
  | .ok i => prog s i
  | .error _ => []

/-- `prog(op)[x[SEQ]]` (R213). -/
def currentStep (s : State) : Option MicroStep := (currentProg s)[s.seq.toNat]?

/-- What the decoder must know beside the bits, taken from the state (R25, R94). -/
def wireCtx (s : State) : WireCtx := ⟨s.cfg.wack, s.umark0, s.umark1⟩

end Machine

end Sys2Proof
end

