-- ==== Sys2Proof/Machine/Ops.lean ====
section
/-! DEFINITION. The named operations on the state: raising an error, completing a command, transmit, the receive phase,
the sync detector and body read, the environment's events, and the host's register accesses. -/

namespace Sys2Proof.Machine

/-! ### Errors and completion -/

/-- `raise K` / `CompleteErr(K)` (60_exceptions.md R276): the block's whole trap entry. ABORTCODE keeps its value for
DeviceAbort only; nothing is saved beside ERRSTEP and there is no return (R280). -/
def completeErr (k : ErrKind) (s : State) : State :=
  { s with
    errKind := some k
    errStep := s.seq.setWidth 4
    err := true
    done := true
    busy := false
    result := 0#32
    abortCode := if k = .deviceAbort then s.abortCode else 0#32
    phase := .idle
    seq := 0#2
    rxCnt := 0
    syncW := []
    armed := false
    texp := false }

/-- `CompleteOk()` (44_host_ops.md R214). -/
def completeOk (s : State) : State :=
  { s with
    busy := false
    done := true
    phase := .idle
    seq := 0#2
    rxCnt := 0
    syncW := []
    armed := false
    texp := false }

/-- `StepDone()` of a micro-program of `n` steps (R213). The last step completes the command. Log 12. -/
def stepDone (n : Nat) (s : State) : State :=
  if n ≤ s.seq.toNat + 1 then completeOk s else { s with seq := s.seq + 1#2, phase := .issue }

/-! ### Transmit -/

/-- The CAN side of the multiplexer: the logical frame in TXBUF goes to `can_tx` under identifier 0x600 + `node`,
data length code 8 (41_transport_mux.md R132). -/
def canTransmit (node : BitVec 7) (s : State) : State :=
  { s with ctx := s.ctx ++ [⟨canReqIdOf node, 8#4, s.txBuf.body⟩] }

/-- The UART side: the ten bytes of TXBUF go to `uart_tx` in order (R133). -/
def uartTransmit (s : State) : State :=
  { s with utx := s.utx ++ s.txBuf.bytes }

/-- `Send(F)` (R140). -/
def send (f : SdoFrame) (s : State) : State :=
  let s' := { s with txBuf := wrap f }
  match s.tselAct with
  | .can => canTransmit s.nodeId s'
  | .uart => uartTransmit s'

/-! ### The receive phase -/

/-- The start of a receive phase (R141); with TIMEOUT = 0 the timer is expired at once (R23). -/
def startReceive (s : State) : State :=
  { s with
    rxCnt := 0
    syncW := []
    armed := true
    texp := decide (s.timeout = 0#32)
    phase := .wait }

/-- The end of a receive phase (R142). -/
def endReceive (s : State) : State :=
  { s with armed := false, texp := false, syncW := [], rxCnt := 0 }

/-! ### Issuing a request -/

/-- The tail of an `RD` step: send, then await the response (R213). -/
def issueRead (f : SdoFrame) (s : State) : State := startReceive (send f s)

/-- The tail of a `WR` step of a program of `n` steps: send, then await the response on CAN, or be done on UART, where
writes are fire-and-forget (R213, 43_framed_codec.md R184). -/
def issueWrite (n : Nat) (f : SdoFrame) (s : State) : State :=
  match s.tselAct with
  | .can => startReceive (send f s)
  | .uart => stepDone n (send f s)

/-- One step of a micro-program of `n` steps in PHASE = ISSUE (R213): the selector check, the length check, the lookup,
the encoding, the send. -/
def issueStep (n : Nat) (st : MicroStep) (s : State) : State :=
  match st with
  | .rd r =>
    match s.cfg.od.lookup r with
    | none => completeErr .usageError s
    | some e => issueRead (encodeRead e.index e.sub) s
  | .wr r v len =>
    match s.cfg.od.lookup r with
    | none => completeErr .usageError s
    | some e =>
      match WriteLen.ofByte? len with
      | none => completeErr .usageError s
      | some w => issueWrite n (encodeWrite e.index e.sub v w) s

/-- An engine step in PHASE = ISSUE for a command with micro-program `p` (R213). A closed connection raises
NotConnected (R277); the check is made at every step, where R213 makes it at the first, since OPEN cannot change in
between (R215). Log 11. Outside PHASE = ISSUE no command is issued. Log 9. -/
def issueCommand (p : List MicroStep) (s : State) : Result :=
  if s.phase ≠ .issue then .next s
  else if s.isOpen = false then .next (completeErr .notConnected s)
  else
    match p[s.seq.toNat]? with
    | none => .fault .noCurrentStep
    | some st => .next (issueStep p.length st s)

/-- An engine step in PHASE = ISSUE for a command that has no steps: its effect, then completion (R213). -/
def issueConnection (f : State → State) (s : State) : Result :=
  if s.phase ≠ .issue then .next s else .next (completeOk (f s))

/-- An engine step in PHASE = ISSUE that issues a request frame by `k` (R213, R215). Log 8. -/
def issueFrame (k : State → State) (s : State) : Result :=
  if s.phase ≠ .issue then .next s
  else if s.isOpen = false then .next (completeErr .notConnected s)
  else .next (k s)

/-- A request frame that only one transport carries: on the other transport its port carries nothing (R132, R133).
Log 9. -/
def issueFrameOn (t : Transport) (k : State → State) (s : State) : Result :=
  issueFrame (fun s => if s.tselAct = t then k s else s) s

/-! ### Responses on CAN -/

/-- `RecvCan` has taken the head of CRXQ and put its eight bytes in RXBUF[1..8] (R145, R146). -/
def takeCanFrame (f : SdoFrame) (s : State) : State :=
  { s with crxq := s.crxq.tail, rxBuf := { s.rxBuf with body := f } }

/-- The outcome of a read step whose response has been taken (R216, R220). -/
def finishRead (n : Nat) (v : ReadVerdict) (s : State) : State :=
  match v with
  | .value w => stepDone n (endReceive { s with result := w })
  | .abort code => completeErr .deviceAbort { s with abortCode := code }
  | .malformed => completeErr .malformedResponse s

/-- The outcome of a write step whose response has been taken (R217, R220). -/
def finishWrite (n : Nat) (v : WriteVerdict) (s : State) : State :=
  match v with
  | .acknowledged => stepDone n (endReceive s)
  | .abort code => completeErr .deviceAbort { s with abortCode := code }
  | .malformed => completeErr .malformedResponse s

/-- The engine step in PHASE = WAIT on CAN that takes the frame `f`, of data length code 8, from the head of CRXQ as
the response of the current step (R220). In any other phase, and on UART, nothing takes a CAN frame. Log 9. -/
def canResponse (f : SdoFrame) (s : State) : Result :=
  if s.phase = .wait ∧ s.tselAct = .can then
    match currentStep s with
    | some (.rd _) => .next (finishRead (currentProg s).length (decodeResponse f) (takeCanFrame f s))
    | some (.wr _ _ _) =>
      .next (finishWrite (currentProg s).length (classifyWrite s.cfg.wack f) (takeCanFrame f s))
    | none => .fault .noCurrentStep
  else .next s

/-! ### Responses on UART -/

/-- The sync detector takes one byte (43_framed_codec.md R186, R220): it joins the window, which is scanned up to the
point where another byte is needed. -/
def syncByte (b : Byte) (s : State) : State :=
  match syncScan s.umark0 s.umark1 (s.syncW ++ [b]) with
  | .more w => { s with syncW := w }
  | .found b0 b1 b2 =>
    { s with
      rxBuf := ((s.rxBuf.setByte 0 b0).setByte 1 b1).setByte 2 b2
      rxCnt := 3
      syncW := [] }

/-- The body read takes one byte (R188). -/
def bodyByte (b : Byte) (s : State) : State :=
  { s with rxBuf := s.rxBuf.setByte s.rxCnt b, rxCnt := s.rxCnt + 1 }

/-- The engine step in PHASE = WAIT on UART that takes the tenth byte of the frame `u` from the head of URXQ and
decodes the frame (R188, R192, R220). In any other phase, and on CAN, nothing takes a UART frame. Log 9. -/
def uartResponse (u : UartFrame) (s : State) : Result :=
  if s.phase = .wait ∧ s.tselAct = .uart then
    match currentStep s with
    | some (.rd _) =>
      let s' := { s with urxq := s.urxq.tail, rxBuf := u, rxCnt := 10 }
      match decodeUart s.umark0 s.umark1 u with
      | .ok w => .next (stepDone (currentProg s).length (endReceive { s' with result := w }))
      | .error k => .next (completeErr k s')
    | some (.wr _ _ _) => .fault .noCurrentStep
    | none => .fault .noCurrentStep
  else .next s

/-! ### Connection -/

/-- `DoOpen()` (44_host_ops.md R218). -/
def doOpen (s : State) : State :=
  if s.isOpen then s else { s with tselAct := s.tsel, urxq := [], crxq := [], isOpen := true }

/-- `DoClose()` (R219). -/
def doClose (s : State) : State :=
  { s with isOpen := false, urxq := [], crxq := [] }

/-! ### Events of the environment -/

/-- There is room for one more item in a queue of capacity `depth`; `none` is infinite (R42, R43). -/
def hasRoom (depth : Option Nat) (n : Nat) : Bool :=
  match depth with
  | none => true
  | some d => decide (n < d)

/-- `UartRx(b)` (41_transport_mux.md R135, R136). -/
def uartRx (b : Byte) (s : State) : State :=
  if s.isOpen ∧ s.tselAct = .uart then
    if hasRoom s.cfg.urxqDepth s.urxq.length then { s with urxq := s.urxq ++ [b] }
    else { s with urxOvr := true }
  else s

/-- Data byte `i` of a received frame: 0 at and beyond the data length code (R137). Log 15. -/
def dlcByte (dlc : BitVec 4) (i : Nat) (b : Byte) : Byte := if i < dlc.toNat then b else 0#8

/-- The data bytes as CRXQ records them (R137). -/
def dlcMask (dlc : BitVec 4) (f : SdoFrame) : SdoFrame :=
  ⟨dlcByte dlc 0 f.cmd, dlcByte dlc 1 f.indexLo, dlcByte dlc 2 f.indexHi, dlcByte dlc 3 f.sub, dlcByte dlc 4 f.p0,
    dlcByte dlc 5 f.p1, dlcByte dlc 6 f.p2, dlcByte dlc 7 f.p3⟩

/-- The CAN receive filter (R134). -/
def canAccepts (f : CanRxFrame) (s : State) : Bool :=
  s.isOpen && decide (s.tselAct = .can) && !f.rtr && decide (f.ident = .std (canRspIdOf s.nodeId))

/-- `CanRx(f)` (R134, R137). -/
def canRx (f : CanRxFrame) (s : State) : State :=
  if canAccepts f s then
    if hasRoom s.cfg.crxqDepth s.crxq.length then { s with crxq := s.crxq ++ [⟨f.dlc, dlcMask f.dlc f.data⟩] }
    else { s with crxOvr := true }
  else s

/-- `TimerExpire` (R147): only while ARMED = 1 and TEXP = 0. -/
def timerExpire (s : State) : State :=
  if s.armed ∧ s.texp = false then { s with texp := true } else s

/-- `Reset` (70_reset_and_hazards.md R300): every piece of state goes to its reset value. The parameters and the events
still to come are not the block's; the traces restart (R302). Log 6. -/
def resetEvent (s : State) : State :=
  { State.resetOf s.cfg with schedule := s.schedule }

/-! ### Host accesses -/

/-- `Accept(w)`, a CMD write while BUSY = 0 (44_host_ops.md R211). -/
def accept (w : Word) (s : State) : State :=
  { s with
    cmd := 0#8 ++ w.extractLsb' 0 24
    busy := true
    done := false
    err := false
    errKind := none
    errStep := 0#4
    result := 0#32
    abortCode := 0#32
    seq := 0#2
    phase := .issue }

/-- `HostWrite(addr, w)` with the write protection of R48 (R20 to R28, R33); an address that is not in the table
ignores the write. Log 16. -/
def hostWrite (addr : Nat) (w : Word) (s : State) : State :=
  if addr = 0x00 then
    if s.isOpen || s.busy then s else { s with tsel := Transport.ofBit (w.getLsbD 0) }
  else if addr = 0x04 then
    if s.isOpen || s.busy then s else { s with nodeId := w.extractLsb' 0 7 }
  else if addr = 0x08 then
    if s.busy then s else { s with timeout := w }
  else if addr = 0x0C then
    if s.isOpen || s.busy then s else { s with baudDiv := w.extractLsb' 0 16 }
  else if addr = 0x10 then
    if s.busy then s else { s with umark0 := byteAt w 0, umark1 := byteAt w 1 }
  else if addr = 0x14 then
    if s.busy then { s with cmdOvr := true } else accept w s
  else if addr = 0x18 then
    if s.busy then s else { s with arg0 := w }
  else if addr = 0x1C then
    if s.busy then s else { s with arg1 := w }
  else if addr = 0x20 then clearSticky w s
  else s

/-- ODPEEK: the entry that CMD.REG selects, 0 for a reserved selector (10_state.md R46). -/
def odPeek (s : State) : Word :=
  match s.cfg.od.lookup (byteAt s.cmd 1) with
  | some e => e.peek
  | none => 0#32

/-- The data of `HostRead(addr)` (R20, R49); an address that is not in the table reads 0. Log 16. -/
def hostRead (addr : Nat) (s : State) : Word :=
  if addr = 0x00 then boolBits 32 s.tsel.bit
  else if addr = 0x04 then s.nodeId.setWidth 32
  else if addr = 0x08 then s.timeout
  else if addr = 0x0C then s.baudDiv.setWidth 32
  else if addr = 0x10 then 0#16 ++ s.umark1 ++ s.umark0
  else if addr = 0x14 then s.cmd
  else if addr = 0x18 then s.arg0
  else if addr = 0x1C then s.arg1
  else if addr = 0x20 then statusWord s
  else if addr = 0x24 then s.result
  else if addr = 0x28 then s.abortCode
  else if addr = 0x2C then odPeek s
  else 0#32

/-- The event `HostRead(addr)`: no side effect on the block (R49); the model records what the host got. Log 7. -/
def hostReadEvent (addr : Nat) (s : State) : State :=
  { s with hostReads := s.hostReads ++ [(addr, hostRead addr s)] }

end Sys2Proof.Machine
end

