-- ==== Sys2Proof/Machine/CanIds.lean ====
section
/-! DEFINITION. The CAN identifiers (30_encoding.md R96): the transmit side of the multiplexer and the receive filter
(41_transport_mux.md R132, R134, R137). -/

namespace Sys2Proof.Machine

/-- The request of the current step of the command in CMD is issued; a command without a current step issues none
(R212, R213). What TXBUF holds from an earlier command is not read (10_state.md R52). -/
def issueCurrentStep (s : State) : State :=
  match currentStep s with
  | some st => issueStep (currentProg s).length st s
  | none => s

/-- CAN.REQ_ID: the multiplexer sends the request frame of the current step under identifier 0x600 + node, and the receive
phase of the step starts, as on CAN it does after every send (R132, R141). An identifier of another node than NODEID is
never sent, and on UART `can_tx` carries nothing (R133). Log 8, 9, 23. -/
def execCanReqId (node : BitVec 7) (s : State) : Result :=
  issueFrameOn .can (fun s => if node = s.nodeId then issueCurrentStep s else s) s

/-- CAN.RSP_ID: the frame at `can_rx` carries the standard identifier 0x580 + node; the filter accepts it and queues it,
or drops it (R134, R137). The frame is the event at the head of the schedule, which is consumed. Log 8, 10. -/
def execCanRspId (node : BitVec 7) (s : State) : Result :=
  match s.schedule with
  | .canRx f :: rest => .next (canRx { f with ident := .std (canRspIdOf node) } { s with schedule := rest })
  | _ => .next s

end Sys2Proof.Machine
end

