-- ==== Sys2Proof/Machine/Connection.lean ====
section
/-! DEFINITION. The commands OPEN and CLOSE (44_host_ops.md R218, R219). They have no micro-program, transmit nothing
and raise nothing; REG and LEN are ignored. -/

namespace Sys2Proof.Machine

/-- OPEN (R218). -/
def execOpenConn (_reg _len : Byte) (s : State) : Result := issueConnection doOpen s

/-- CLOSE (R219). -/
def execCloseConn (_reg _len : Byte) (s : State) : Result := issueConnection doClose s

end Sys2Proof.Machine
end

