-- ==== Sys2Proof/Machine/Generic.lean ====
section
/-! DEFINITION. The commands READ and WRITE (44_host_ops.md R216, R217): the engine step in PHASE = ISSUE. The receive
phase they start is run by the response frames (Machine/SdoResponses.lean, Machine/UartFrames.lean). -/

namespace Sys2Proof.Machine

/-- READ: micro-program `[RD(REG)]`; LEN is ignored (R216). -/
def execRead (reg len : Byte) (s : State) : Result := issueCommand (prog s (.read reg len)) s

/-- WRITE: micro-program `[WR(REG, ARG0, LEN)]` (R217). -/
def execWrite (reg len : Byte) (s : State) : Result := issueCommand (prog s (.write reg len)) s

end Sys2Proof.Machine
end

