-- ==== Sys2Proof/Machine/Motor.lean ====
section
/-! DEFINITION. The six motor commands (45_motor_state_controller.md R230 to R245): the engine step in PHASE = ISSUE
for step SEQ of their micro-programs. REG and LEN are ignored (R83 e). No power state is tracked (R47, R244). -/

namespace Sys2Proof.Machine

/-- RESET_ERROR: `[WR(0, 0x86, len(0))]` (R232). -/
def execResetError (reg len : Byte) (s : State) : Result := issueCommand (prog s (.resetError reg len)) s

/-- QUICK_STOP: `[WR(0, 0x0B, len(0))]` (R233). -/
def execQuickStop (reg len : Byte) (s : State) : Result := issueCommand (prog s (.quickStop reg len)) s

/-- START_MOVE: `[WR(0, 0x2F, len(0)), WR(2, 0x01, len(2)), WR(0, 0x3F, len(0))]` (R234). -/
def execStartMove (reg len : Byte) (s : State) : Result := issueCommand (prog s (.startMove reg len)) s

/-- SET_TARGET_POSITION: `[WR(4, ARG0, len(4))]` (R236). -/
def execSetTargetPosition (reg len : Byte) (s : State) : Result :=
  issueCommand (prog s (.setTargetPosition reg len)) s

/-- SET_TRAPEZOID_SPEED: `[WR(6, ARG0, len(6))]` (R237). -/
def execSetTrapezoidSpeed (reg len : Byte) (s : State) : Result :=
  issueCommand (prog s (.setTrapezoidSpeed reg len)) s

/-- SET_POS_SPEED: `[WR(0, 0x2F, len(0)), WR(4, ARG0, len(4)), WR(6, ARG1, len(6)), WR(0, 0x3F, len(0))]` (R239). -/
def execSetPosSpeed (reg len : Byte) (s : State) : Result := issueCommand (prog s (.setPosSpeed reg len)) s

end Sys2Proof.Machine
end

