-- ==== Sys2Proof/Machine/SdoRequests.lean ====
section
/-! DEFINITION. The logical request frames (30_encoding.md R86 to R89). The block sends them: an engine step in
PHASE = ISSUE with the connection open hands the frame to the transport (R140) and goes on as R213 says, to the receive
phase, or, for a write on UART, to the completion of the step. Log 8. -/

namespace Sys2Proof.Machine

/-- SDO.RD_REQ (R86, R216). -/
def execSdoRdReq (index : Half) (sub : Byte) (s : State) : Result :=
  issueFrame (issueRead (rdReqFrame index sub)) s

/-- SDO.WR1_REQ (R87, R217). -/
def execSdoWr1Req (index : Half) (sub v : Byte) (s : State) : Result :=
  issueFrame (issueWrite (currentProg s).length (wr1ReqFrame index sub v)) s

/-- SDO.WR2_REQ (R88, R217). -/
def execSdoWr2Req (index : Half) (sub : Byte) (v : Half) (s : State) : Result :=
  issueFrame (issueWrite (currentProg s).length (wr2ReqFrame index sub v)) s

/-- SDO.WR4_REQ (R89, R217). -/
def execSdoWr4Req (index : Half) (sub : Byte) (v : Word) (s : State) : Result :=
  issueFrame (issueWrite (currentProg s).length (wordFrame 0x23#8 index sub v)) s

end Sys2Proof.Machine
end

