-- ==== Sys2Proof/Machine/SdoResponses.lean ====
section
/-! DEFINITION. The logical response frames (30_encoding.md R90 to R94): the engine step in PHASE = WAIT on the CAN
transport that takes the frame from CRXQ as the response of the current step (44_host_ops.md R220). Whether the step
is a read or a write decides how the frame is judged (R165, R170). Log 8. -/

namespace Sys2Proof.Machine

/-- SDO.RD1_RSP (R90, R166; R98 in a write step). -/
def execSdoRd1Rsp (index : Half) (sub v : Byte) (rest : BitVec 24) (s : State) : Result :=
  canResponse (rd1RspFrame index sub v rest) s

/-- SDO.RD2_RSP (R91, R166; R98 in a write step). -/
def execSdoRd2Rsp (index : Half) (sub : Byte) (v rest : Half) (s : State) : Result :=
  canResponse (rd2RspFrame index sub v rest) s

/-- SDO.RD4_RSP (R92, R166; R98 in a write step). -/
def execSdoRd4Rsp (index : Half) (sub : Byte) (v : Word) (s : State) : Result :=
  canResponse (wordFrame 0x43#8 index sub v) s

/-- SDO.ABORT (R93, R167, R170). -/
def execSdoAbort (index : Half) (sub : Byte) (code : Word) (s : State) : Result :=
  canResponse (wordFrame 0x80#8 index sub code) s

/-- SDO.WR_ACK (R94, R170; R97 in a read step). -/
def execSdoWrAck (ack : Byte) (index : Half) (sub : Byte) (rest : Word) (s : State) : Result :=
  canResponse (wordFrame ack index sub rest) s

end Sys2Proof.Machine
end

