-- ==== Sys2Proof/Machine/UartFrames.lean ====
section
/-! DEFINITION. The UART frames (30_encoding.md R95). The four request kinds are `Wrap` of a request frame and go out on
the UART transport only (R133, R182, R183); their checksum byte is generated, so the operand `chk` is not used
(R182, log 22). UART.RD_RSP is the frame whose tenth byte the engine takes in its receive phase (R188, R192, R220). -/

namespace Sys2Proof.Machine

/-- UART.RD_REQ (R95, R183). -/
def execUartRdReq (index : Half) (sub _chk : Byte) (s : State) : Result :=
  issueFrameOn .uart (issueRead (rdReqFrame index sub)) s

/-- UART.WR1_REQ; no response is awaited (R95, R184). -/
def execUartWr1Req (index : Half) (sub v _chk : Byte) (s : State) : Result :=
  issueFrameOn .uart (issueWrite (currentProg s).length (wr1ReqFrame index sub v)) s

/-- UART.WR2_REQ; no response is awaited (R95, R184). -/
def execUartWr2Req (index : Half) (sub : Byte) (v : Half) (_chk : Byte) (s : State) : Result :=
  issueFrameOn .uart (issueWrite (currentProg s).length (wr2ReqFrame index sub v)) s

/-- UART.WR4_REQ; no response is awaited (R95, R184). -/
def execUartWr4Req (index : Half) (sub : Byte) (v : Word) (_chk : Byte) (s : State) : Result :=
  issueFrameOn .uart (issueWrite (currentProg s).length (wordFrame 0x23#8 index sub v)) s

/-- UART.RD_RSP (R95, R188 to R194). -/
def execUartRdRsp (mark0 mark1 indexHi sub : Byte) (v : Word) (chk : Byte) (s : State) : Result :=
  uartResponse (uartRspFrame mark0 mark1 indexHi sub v chk) s

end Sys2Proof.Machine
end

