-- ==== Sys2Proof/Machine/Dispatch.lean ====
section
/-! DEFINITION. The meaning of every instruction, one arm per constructor of `Instr`. -/

namespace Sys2Proof.Machine

def exec (i : Instr) (s : State) : Host.Outcome State Fault Refusal :=
  match i with
  | .openConn reg len => Sys2Proof.Machine.execOpenConn reg len s
  | .closeConn reg len => Sys2Proof.Machine.execCloseConn reg len s
  | .read reg len => Sys2Proof.Machine.execRead reg len s
  | .write reg len => Sys2Proof.Machine.execWrite reg len s
  | .resetError reg len => Sys2Proof.Machine.execResetError reg len s
  | .quickStop reg len => Sys2Proof.Machine.execQuickStop reg len s
  | .startMove reg len => Sys2Proof.Machine.execStartMove reg len s
  | .setTargetPosition reg len => Sys2Proof.Machine.execSetTargetPosition reg len s
  | .setTrapezoidSpeed reg len => Sys2Proof.Machine.execSetTrapezoidSpeed reg len s
  | .setPosSpeed reg len => Sys2Proof.Machine.execSetPosSpeed reg len s
  | .sdoRdReq index sub => Sys2Proof.Machine.execSdoRdReq index sub s
  | .sdoWr1Req index sub v => Sys2Proof.Machine.execSdoWr1Req index sub v s
  | .sdoWr2Req index sub v => Sys2Proof.Machine.execSdoWr2Req index sub v s
  | .sdoWr4Req index sub v => Sys2Proof.Machine.execSdoWr4Req index sub v s
  | .sdoRd1Rsp index sub v rest => Sys2Proof.Machine.execSdoRd1Rsp index sub v rest s
  | .sdoRd2Rsp index sub v rest => Sys2Proof.Machine.execSdoRd2Rsp index sub v rest s
  | .sdoRd4Rsp index sub v => Sys2Proof.Machine.execSdoRd4Rsp index sub v s
  | .sdoAbort index sub code => Sys2Proof.Machine.execSdoAbort index sub code s
  | .sdoWrAck ack index sub rest => Sys2Proof.Machine.execSdoWrAck ack index sub rest s
  | .uartRdReq index sub chk => Sys2Proof.Machine.execUartRdReq index sub chk s
  | .uartWr1Req index sub v chk => Sys2Proof.Machine.execUartWr1Req index sub v chk s
  | .uartWr2Req index sub v chk => Sys2Proof.Machine.execUartWr2Req index sub v chk s
  | .uartWr4Req index sub v chk => Sys2Proof.Machine.execUartWr4Req index sub v chk s
  | .uartRdRsp mark0 mark1 indexHi sub v chk => Sys2Proof.Machine.execUartRdRsp mark0 mark1 indexHi sub v chk s
  | .canReqId node => Sys2Proof.Machine.execCanReqId node s
  | .canRspId node => Sys2Proof.Machine.execCanRspId node s

end Sys2Proof.Machine
end

