-- ==== Sys2Proof/Machine/Engine.lean ====
section
/-! DEFINITION. The engine step (44_host_ops.md R213, R220) and the events (20_memory.md R77): where each instruction
is fetched from, and what happens where there is none. Also the placing of an instruction where it is fetched next. -/

namespace Sys2Proof.Machine

/-- PHASE = ISSUE: the command is fetched from CMD; a reserved OP raises UsageError (R213, R83 a). -/
def engineIssue (s : State) : Result :=
  match decodeCommand s.cmd with
  | .ok i => exec i s
  | .error _ => .next (completeErr .usageError s)

/-- The decoder of the frame that the current step awaits on CAN (R97, R98); with no current step nothing is awaited. -/
def decodeAwaited (s : State) (f : SdoFrame) : Option (Except DecodeError Instr) :=
  match currentStep s with
  | some (.rd _) => some (decodeReadResponse f)
  | some (.wr _ _ _) => some (decodeWriteResponse s.cfg.wack f)
  | none => none

/-- PHASE = WAIT on CAN: the response is fetched from the head of CRXQ (R145, R146, R220). A wrong data length code is
MalformedResponse, checked first (R278), then the class byte. -/
def engineWaitCan (s : State) : Result :=
  match s.crxq with
  | [] => if s.texp then .next (completeErr .timeout s) else .next s
  | d :: rest =>
    if d.dlc = 8#4 then
      match decodeAwaited s d.data with
      | some (.ok i) => exec i s
      | some (.error _) => .next (completeErr .malformedResponse (takeCanFrame d.data s))
      | none => .fault .noCurrentStep
    else .next (completeErr .malformedResponse { s with crxq := rest })

/-- PHASE = WAIT on UART: one byte of URXQ a step (R144, R186, R188, R220). The tenth byte makes the frame, which is
decoded and run; the marker test cannot fail there (R191). Log 14. -/
def engineWaitUart (s : State) : Result :=
  match s.urxq with
  | [] => if s.texp then .next (completeErr .timeout s) else .next s
  | b :: rest =>
    if s.rxCnt < 3 then .next (syncByte b { s with urxq := rest })
    else if s.rxCnt < 9 then .next (bodyByte b { s with urxq := rest })
    else
      match decodeUartResponse s.umark0 s.umark1 (s.rxBuf.setByte 9 b) with
      | .ok i => exec i s
      | .error _ =>
        .next (completeErr .malformedResponse { s with urxq := rest, rxBuf := s.rxBuf.setByte 9 b, rxCnt := 10 })

/-- `EngineStep()` (R213). Where it is not enabled, idle or waiting on an empty queue with TEXP = 0, nothing changes. -/
def engineStep (s : State) : Result :=
  match s.phase with
  | .idle => .next s
  | .issue => engineIssue s
  | .wait =>
    match s.tselAct with
    | .can => engineWaitCan s
    | .uart => engineWaitUart s

/-- A frame arrives on `can_rx` (R134): the identifier decides; an identifier that is not a response identifier, an
extended one among them, is dropped with no effect. -/
def engineCanRx (f : CanRxFrame) (rest : List Event) (s : State) : Result :=
  match f.ident with
  | .std id =>
    match decodeResponseId id with
    | .ok i => exec i s
    | .error _ => .next { s with schedule := rest }
  | .ext _ => .next { s with schedule := rest }

/-- One event (R77): the next one of the schedule, or, when none is left, an engine step. Log 4, 5. -/
def runEvent (s : State) : Result :=
  match s.schedule with
  | [] => engineStep s
  | .engine :: rest => engineStep { s with schedule := rest }
  | .hostWrite addr w :: rest => .next (hostWrite addr w { s with schedule := rest })
  | .hostRead addr :: rest => .next (hostReadEvent addr { s with schedule := rest })
  | .uartRx b :: rest => .next (uartRx b { s with schedule := rest })
  | .canRx f :: rest => engineCanRx f rest s
  | .timerExpire :: rest => .next (timerExpire { s with schedule := rest })
  | .reset :: rest => .next (resetEvent { s with schedule := rest })

/-! ### Placing an instruction where it is fetched -/

/-- A host command `w` as a host write to CMD leaves it: accepted (R211). Log 18. -/
def placeCommand (w : Word) (s : State) : State := accept w { s with schedule := [] }

/-- A state whose engine is about to issue step 0 of command `w` on the open transport `t`, object `index, sub` being
OD entry 0. Log 18. -/
def placeRequest (t : Transport) (w : Word) (index : Half) (sub : Byte) (s : State) : State :=
  let s' := accept w { s with schedule := [] }
  { s' with
    isOpen := true
    tselAct := t
    cfg := { s'.cfg with od := { s'.cfg.od with controlWord := { s'.cfg.od.controlWord with index := index, sub := sub } } } }

/-- A state whose engine awaits the response of step 0 of command `w` on CAN, with frame `f` at the head of CRXQ.
Log 18. -/
def placeCanResponse (w : Word) (f : SdoFrame) (s : State) : State :=
  let s' := accept w { s with schedule := [] }
  { s' with isOpen := true, tselAct := .can, phase := .wait, armed := true, crxq := [⟨8#4, f⟩] }

/-- A state whose engine awaits the tenth byte of frame `u` on UART, which is at the head of URXQ; UMARK holds the
frame's markers. Log 18. -/
def placeUartResponse (u : UartFrame) (s : State) : State :=
  let s' := accept (commandWord 0x10#8 0#8 0#8) { s with schedule := [] }
  { s' with
    isOpen := true
    tselAct := .uart
    phase := .wait
    armed := true
    umark0 := u.body.cmd
    umark1 := u.body.indexLo
    rxBuf := u
    rxCnt := 9
    urxq := [u.check] }

/-- `s` with instruction `i` placed where the next step fetches it. Log 18. -/
def place (i : Instr) (s : State) : State :=
  match i with
  | .openConn reg len => placeCommand (commandWord 0x01#8 reg len) s
  | .closeConn reg len => placeCommand (commandWord 0x02#8 reg len) s
  | .read reg len => placeCommand (commandWord 0x10#8 reg len) s
  | .write reg len => placeCommand (commandWord 0x11#8 reg len) s
  | .resetError reg len => placeCommand (commandWord 0x20#8 reg len) s
  | .quickStop reg len => placeCommand (commandWord 0x21#8 reg len) s
  | .startMove reg len => placeCommand (commandWord 0x22#8 reg len) s
  | .setTargetPosition reg len => placeCommand (commandWord 0x23#8 reg len) s
  | .setTrapezoidSpeed reg len => placeCommand (commandWord 0x24#8 reg len) s
  | .setPosSpeed reg len => placeCommand (commandWord 0x25#8 reg len) s
  | .sdoRdReq index sub => placeRequest .can (commandWord 0x10#8 0#8 0#8) index sub s
  | .sdoWr1Req index sub v =>
    { placeRequest .can (commandWord 0x11#8 0#8 1#8) index sub s with arg0 := v.setWidth 32 }
  | .sdoWr2Req index sub v =>
    { placeRequest .can (commandWord 0x11#8 0#8 2#8) index sub s with arg0 := v.setWidth 32 }
  | .sdoWr4Req index sub v => { placeRequest .can (commandWord 0x11#8 0#8 4#8) index sub s with arg0 := v }
  | .sdoRd1Rsp index sub v rest => placeCanResponse (commandWord 0x10#8 0#8 0#8) (rd1RspFrame index sub v rest) s
  | .sdoRd2Rsp index sub v rest => placeCanResponse (commandWord 0x10#8 0#8 0#8) (rd2RspFrame index sub v rest) s
  | .sdoRd4Rsp index sub v => placeCanResponse (commandWord 0x10#8 0#8 0#8) (wordFrame 0x43#8 index sub v) s
  | .sdoAbort index sub code => placeCanResponse (commandWord 0x10#8 0#8 0#8) (wordFrame 0x80#8 index sub code) s
  | .sdoWrAck ack index sub rest =>
    let s' := placeCanResponse (commandWord 0x11#8 0#8 4#8) (wordFrame ack index sub rest) s
    { s' with cfg := { s'.cfg with wack := ack } }
  | .uartRdReq index sub _ => placeRequest .uart (commandWord 0x10#8 0#8 0#8) index sub s
  | .uartWr1Req index sub v _ =>
    { placeRequest .uart (commandWord 0x11#8 0#8 1#8) index sub s with arg0 := v.setWidth 32 }
  | .uartWr2Req index sub v _ =>
    { placeRequest .uart (commandWord 0x11#8 0#8 2#8) index sub s with arg0 := v.setWidth 32 }
  | .uartWr4Req index sub v _ => { placeRequest .uart (commandWord 0x11#8 0#8 4#8) index sub s with arg0 := v }
  | .uartRdRsp mark0 mark1 indexHi sub v chk => placeUartResponse (uartRspFrame mark0 mark1 indexHi sub v chk) s
  | .canReqId node =>
    let e := s.cfg.od.controlWord
    { placeRequest .can (commandWord 0x10#8 0#8 0#8) e.index e.sub s with nodeId := node }
  | .canRspId node =>
    { s with
      isOpen := true
      tselAct := .can
      nodeId := node
      schedule := [.canRx ⟨.std (canRspIdOf node), false, 8#4, ⟨0, 0, 0, 0, 0, 0, 0, 0⟩⟩] }

/-- `s` with the bits `w` of an instruction, numbered as the opcode table numbers them, placed where the next step
fetches them; the bits of no instruction are written to CMD. -/
def placeTableWord (s : State) (nbits w : Nat) : State :=
  match decodeTableWord nbits w with
  | some i => place i s
  | none => placeCommand (BitVec.ofNat 32 w) s

end Sys2Proof.Machine
end

