-- ==== Sys2Proof/Machine/Step.lean ====
section
/-! DEFINITION. The step of the machine: one atomic event (20_memory.md R77). -/

namespace Sys2Proof.Machine

/-- One step: the next event of the schedule, or an engine step (Machine/Engine.lean, `runEvent`). -/
def step (s : State) : Host.Outcome State Fault Refusal := runEvent s

/-- `s` with the instruction whose bits are `w` placed where the next step fetches it (Machine/Engine.lean,
`placeTableWord`). Log 18. -/
def State.withFetchWord (s : State) (nbits w : Nat) : State := placeTableWord s nbits w

end Sys2Proof.Machine
end

