-- ==== Sys2Proof/Machine/HostUnits.lean ====
section
/-! DEFINITION. Host software, not part of the block (00_scope.md R4 d): the unit conversions of
46_host_units_facade.md R251 to R257 and R264 to R266, over exact rationals. The two calibration sets stay
apart; the transport that the host opened selects one of them (R251: `openedTransport` in Machine/HostProgram.lean). -/

namespace Sys2Proof.HostSide

/-- The parameters of the host software (R5, R264): the ones the spec leaves open have no default. Log 20. -/
structure HostParams where
  /-- `K_RPM_CAN`, rpm per device unit; the literal 0.00005588 is the default (R256). -/
  kRpmCan : Rat := 1397 / 25000000
  /-- `RPM_PER_MM_S`, open (R264). -/
  rpmPerMmS : Rat
  /-- `K_SPD_UART`, open; taken as device units per metre per second (R260). Log 20. -/
  kSpdUart : Rat
  /-- `UART_HEIGHT_DIV1000` (R257). -/
  uartHeightDiv1000 : Bool := false
deriving DecidableEq, Repr

/-- `K_POS_CAN`, 9830.4 increments per millimetre (R251). -/
def kPosCan : Rat := 49152 / 5

/-- `K_SPD_CAN`, 512 * 65536 / 1875 device units per rpm (R251). -/
def kSpdCan : Rat := 33554432 / 1875

/-- `K_POS_UART`, 3584000 / 500 increments per millimetre (R251). -/
def kPosUart : Rat := 3584000 / 500

/-- Rounding to the nearest integer, ties away from zero (R253). -/
def roundHalfAway (x : Rat) : Int :=
  if 0 ≤ x then (x + 1 / 2).floor else -((-x + 1 / 2).floor)

/-- The 32-bit pattern of an integer that fits a signed 32-bit integer; the host refuses one that does not (R253). -/
def toPattern? (n : Int) : Option Word :=
  if -2147483648 ≤ n ∧ n ≤ 2147483647 then some (BitVec.ofInt 32 n) else none

/-! ### The layers of R264

On CAN there are three: the facade in metres and metres per second, the controller's own surface in millimetres and
millimetres per second, and the raw integers. Each function below goes over one boundary, and its name says which. -/

/-- Facade to controller surface: metres to millimetres (R264). -/
def millimetresOfMetres (m : Rat) : Rat := m * 1000

/-- Controller surface to facade: millimetres to metres (R254, R264). -/
def metresOfMillimetres (mm : Rat) : Rat := mm / 1000

/-- Facade to controller surface: metres per second to millimetres per second (R260, R264). -/
def mmPerSecondOfMPerSecond (mps : Rat) : Rat := mps * 1000

/-- Controller surface to facade: millimetres per second to metres per second (R261, R264). -/
def mPerSecondOfMmPerSecond (mmps : Rat) : Rat := mmps / 1000

/-- Controller surface to motor speed: millimetres per second to rpm, by the open factor (R260, R264). -/
def rpmOfMmPerSecond (p : HostParams) (mmps : Rat) : Rat := mmps * p.rpmPerMmS

/-- Division by an open conversion factor (R261). For the factor 0, of which the spec says nothing, the result is a free
value, by the MODEL's choice. Log 20. -/
def perFactor (x k : Rat) : Rat := if k = 0 then Config.quotientByZero x else x / k

/-- Motor speed to controller surface: rpm to millimetres per second (R261, R264); free where RPM_PER_MM_S is 0 (log 20). -/
def mmPerSecondOfRpm (p : HostParams) (rpm : Rat) : Rat := perFactor rpm p.rpmPerMmS

/-! ### Raw integers -/

/-- Position forward, CAN: `round(mm * 9830.4)` (R254). -/
def canIncrements (mm : Rat) : Int := roundHalfAway (mm * kPosCan)

/-- Position inverse, CAN, in millimetres: `inc / 9830.4` (R254). -/
def canMillimetres (inc : Int) : Rat := inc / kPosCan

/-- Speed forward, CAN: `round(rpm * 512 * 65536 / 1875)` (R255). -/
def canDeviceSpeed (rpm : Rat) : Int := roundHalfAway (rpm * kSpdCan)

/-- Speed inverse, CAN: `dev * K_RPM_CAN` (R256). -/
def canRpm (p : HostParams) (dev : Int) : Rat := dev * p.kRpmCan

/-- The speed of the controller surface, in millimetres per second, as a raw device speed (R255, R264). -/
def canDeviceSpeedOfSurface (p : HostParams) (mmps : Rat) : Int := canDeviceSpeed (rpmOfMmPerSecond p mmps)

/-- A raw device speed as the controller surface gives it, in millimetres per second (R256, R264). -/
def canSurfaceSpeed (p : HostParams) (dev : Int) : Rat := mmPerSecondOfRpm p (canRpm p dev)

/-- Position forward, UART: `round(height_m * 1000 * 3584000 / 500)` (R257). -/
def uartIncrements (m : Rat) : Int := roundHalfAway (m * 1000 * kPosUart)

/-- Position inverse, UART: `inc / 7168`, divided by 1000 if the parameter says so (R257). -/
def uartHeight (p : HostParams) (inc : Int) : Rat :=
  if p.uartHeightDiv1000 then inc / kPosUart / 1000 else inc / kPosUart

end Sys2Proof.HostSide
end

