-- ==== Sys2Proof/Machine/HostProgram.lean ====
section
/-! DEFINITION. Host software, not part of the block (00_scope.md R4 d): the textual syntax of test programs (30_encoding.md
R102) and the host's calling sequence (44_host_ops.md R210, 46_host_units_facade.md R250, R252), the facade's
pseudo-instructions (R103, 46_host_units_facade.md R258 to R264, R267, R268), and the actuator's power state as an
environment component (45_motor_state_controller.md R243). -/

namespace Sys2Proof.HostSide

open Sys2Proof.Machine

/-- The fifteen logical register names (R81). -/
inductive OdName where
  | controlWord
  | statusWord
  | operationMode
  | actualPosition
  | targetPosition
  | actualSpeed
  | targetSpeed
  | actualCurrent
  | targetCurrent
  | currentLimit
  | posSoftLimit
  | negSoftLimit
  | speedLimit
  | errorCodeLow
  | errorCodeHigh
deriving DecidableEq, Repr

/-- The selector number of a name (R81). -/
def OdName.sel : OdName → Byte
  | .controlWord => 0#8
  | .statusWord => 1#8
  | .operationMode => 2#8
  | .actualPosition => 3#8
  | .targetPosition => 4#8
  | .actualSpeed => 5#8
  | .targetSpeed => 6#8
  | .actualCurrent => 7#8
  | .targetCurrent => 8#8
  | .currentLimit => 9#8
  | .posSoftLimit => 10#8
  | .negSoftLimit => 11#8
  | .speedLimit => 12#8
  | .errorCodeLow => 13#8
  | .errorCodeHigh => 14#8

/-- The configuration registers a `SET` line names (R102). -/
inductive ConfigReg where
  | ctrl
  | nodeid
  | timeout
  | bauddiv
  | umark
deriving DecidableEq, Repr

/-- The host address of a configuration register (R20). -/
def ConfigReg.addr : ConfigReg → Nat
  | .ctrl => 0x00
  | .nodeid => 0x04
  | .timeout => 0x08
  | .bauddiv => 0x0C
  | .umark => 0x10

/-- What the environment does in an `ENV` line (R102). -/
inductive EnvAct where
  | uart (bs : List Byte)
  | can (id : BitVec 11) (dlc : BitVec 4) (data : SdoFrame)
  | timeout
deriving DecidableEq, Repr

/-- One line of a test program (R102); `hostWrite` is a bare write, which 95_test_vectors.md part 3 uses without a line
name, at once and even while BUSY = 1. -/
inductive Line where
  | set (r : ConfigReg) (w : Word)
  | openConn
  | closeConn
  | read (r : OdName)
  | write (r : OdName) (v : Word) (len : Byte)
  | resetError
  | quickStop
  | startMove
  | setTargetPosition (v : Word)
  | setTrapezoidSpeed (v : Word)
  | setPosSpeed (pos speed : Word)
  | env (a : EnvAct)
  | hostWrite (addr : Nat) (w : Word)
deriving DecidableEq, Repr

/-- What a line is to the host's calling sequence (R210, R102). -/
inductive LineKind where
  /-- A register write, after the command before it is done. -/
  | setting
  /-- A command: its writes, after the command before it is done, and then a wait for DONE. -/
  | command
  /-- Not held up by the wait for DONE: the environment, and a bare write. -/
  | free
deriving DecidableEq, Repr

/-- The kind of a line (R102). -/
def Line.kind : Line → LineKind
  | .set _ _ => .setting
  | .openConn => .command
  | .closeConn => .command
  | .read _ => .command
  | .write _ _ _ => .command
  | .resetError => .command
  | .quickStop => .command
  | .startMove => .command
  | .setTargetPosition _ => .command
  | .setTrapezoidSpeed _ => .command
  | .setPosSpeed _ _ => .command
  | .env _ => .free
  | .hostWrite _ _ => .free

/-- The CMD write of a command (R80, R102). -/
def commandWrite (op reg len : Byte) : Event := .hostWrite 0x14 (commandWord op reg len)

/-- The events of an `ENV` line (R102). -/
def EnvAct.events : EnvAct → List Event
  | .uart bs => bs.map .uartRx
  | .can id dlc data => [.canRx ⟨.std id, false, dlc, data⟩]
  | .timeout => [.timerExpire]

/-- The events a line stands for, the wait for DONE left out (R102): of a command the operand writes, then CMD. -/
def Line.events : Line → List Event
  | .set r w => [.hostWrite r.addr w]
  | .openConn => [commandWrite 0x01#8 0#8 0#8]
  | .closeConn => [commandWrite 0x02#8 0#8 0#8]
  | .read r => [commandWrite 0x10#8 r.sel 0#8]
  | .write r v len => [.hostWrite 0x18 v, commandWrite 0x11#8 r.sel len]
  | .resetError => [commandWrite 0x20#8 0#8 0#8]
  | .quickStop => [commandWrite 0x21#8 0#8 0#8]
  | .startMove => [commandWrite 0x22#8 0#8 0#8]
  | .setTargetPosition v => [.hostWrite 0x18 v, commandWrite 0x23#8 0#8 0#8]
  | .setTrapezoidSpeed v => [.hostWrite 0x18 v, commandWrite 0x24#8 0#8 0#8]
  | .setPosSpeed pos speed => [.hostWrite 0x18 pos, .hostWrite 0x1C speed, commandWrite 0x25#8 0#8 0#8]
  | .env a => a.events
  | .hostWrite addr w => [.hostWrite addr w]

/-! ### Running a program against the block -/

/-- What follows a next state; a stop stays. -/
def andThen (r : Result) (f : State → Result) : Result :=
  match r with
  | .next s => f s
  | .fault r => .fault r
  | .refused r => .refused r

/-- At most `n` steps with an empty schedule, that is engine steps, stopping at a stop of the machine. -/
def settle : Nat → State → Result
  | 0, s => .next s
  | n + 1, s =>
    match step s with
    | .next s' => settle n s'
    | .fault r => .fault r
    | .refused r => .refused r

/-- The events of a list, one step each. -/
def feed : List Event → State → Result
  | [], s => .next s
  | e :: es, s => andThen (step { s with schedule := [e] }) (feed es)

/-- How many engine steps can be enabled at most before the engine waits or is idle: one for each queued item, the
issues of four steps and a timeout. Further steps change nothing. -/
def settleBound (s : State) : Nat := s.urxq.length + s.crxq.length + 8

/-- Bit `i` of what the host reads from STATUS. -/
def statusBit (i : Nat) (s : State) : Bool := (hostRead 0x20 s).getLsbD i

/-- The host's reads of one poll: STATUS and, once DONE = 1, ABORTCODE or RESULT as ERR requires (R210). -/
def pollReads (s : State) : List Event :=
  if statusBit 1 s then [.hostRead 0x20, .hostRead (if statusBit 2 s then 0x28 else 0x24)] else [.hostRead 0x20]

/-- What the host still waits for: nothing, or DONE of the command it wrote (R210). -/
inductive HostWait where
  | none
  | forDone
deriving DecidableEq, Repr

/-- What the host waits for once a line of kind `k` is written. -/
def HostWait.after (k : LineKind) (w : HostWait) : HostWait := if k = .command then .forDone else w

/-- The wait after a poll: over once DONE = 1 has been read. -/
def HostWait.polled (s : State) (w : HostWait) : HostWait := if statusBit 1 s then .none else w

/-- The host does not write the line: it still polls for DONE of the command before, or for BUSY = 0 (R210, R250). -/
def held (w : HostWait) (l : Line) (s : State) : Bool :=
  decide (l.kind ≠ .free) && (decide (w = .forDone) || statusBit 0 s)

/-- One line: its events, then the engine runs until it is not enabled, then, while the host waits, one poll; nothing but
the environment can change what a further poll would read (R102, R210). Log 26. -/
def Line.run (w : HostWait) (l : Line) (s : State) : Result :=
  andThen (feed l.events s) fun s =>
    andThen (settle (settleBound s) s) fun s =>
      if w.after l.kind = .forDone then feed (pollReads s) s else .next s

/-- How a test program ends. Log 26. -/
inductive RunEnd where
  /-- Every line has run and the host has read DONE = 1 for every command. -/
  | finished (s : State)
  /-- The host still polls: DONE = 0 (or BUSY = 1), and no line of the environment is left before the next host line. -/
  | waiting (s : State)
  /-- The machine stopped. -/
  | fault (r : Fault)
  /-- The machine refused. -/
  | refused (r : Refusal)
deriving DecidableEq, Repr

/-- The rest of a test program, the host waiting for `w` (R102, R210). -/
def runFrom : HostWait → List Line → State → RunEnd
  | w, [], s => if w = .forDone then .waiting s else .finished s
  | w, l :: ls, s =>
    if held w l s then .waiting s
    else
      match l.run w s with
      | .next s' => runFrom ((w.after l.kind).polled s') ls s'
      | .fault r => .fault r
      | .refused r => .refused r

/-- A test program (R102): a command is written, STATUS polled until DONE = 1 while the `ENV` lines that follow it
happen, and only then is the next host line written (R210, R250). -/
def runLines (ls : List Line) (s : State) : RunEnd := runFrom .none ls s

/-! ### The facade -/

/-- How a facade operation fails: with the block's error as its own kind, its abort code and its step (R268), or because
a value does not fit a signed 32-bit integer (R253). -/
inductive HostError where
  | block (k : ErrKind) (abortCode : Word) (step : BitVec 4)
  | doesNotFit
deriving DecidableEq, Repr

/-- What the host reads of a command (R210, R252, R268): nothing while DONE = 0; RESULT once DONE = 1 with ERR = 0; the
error once DONE = 1 with ERR = 1. -/
def hostOutcome (s : State) : Option (Except HostError Word) :=
  match s.done, s.err, s.errKind with
  | true, false, _ => some (.ok s.result)
  | true, true, some k => some (.error (.block k s.abortCode s.errStep))
  | true, true, none => none
  | false, _, _ => none

/-- The outcome of the last command of a program that has come to its end. -/
def RunEnd.outcome : RunEnd → Option (Except HostError Word)
  | .finished s => hostOutcome s
  | .waiting _ => none
  | .fault _ => none
  | .refused _ => none

/-- The configuration structure `open()` takes (R262). -/
structure OpenConfig where
  transport : Transport
  nodeId : BitVec 7
  bauddiv : Half
deriving DecidableEq, Repr

/-- `open()`: CTRL, NODEID, BAUDDIV, then OPEN (R262, R304). -/
def facadeOpen (c : OpenConfig) : List Line :=
  [.set .ctrl (boolBits 32 c.transport.bit), .set .nodeid (c.nodeId.setWidth 32), .set .bauddiv (c.bauddiv.setWidth 32),
    .openConn]

/-- `close()` (R262). -/
def facadeClose : List Line := [.closeConn]

/-- `go()` (R262). -/
def facadeGo : List Line := [.startMove]

/-- `stop()` (R262). -/
def facadeStop : List Line := [.quickStop]

/-- The line that writes a raw integer, if it fits (R253). Log 27. -/
def writeRaw (line : Word → Line) (raw : Int) : Except HostError (List Line) :=
  match toPattern? raw with
  | some w => .ok [line w]
  | none => .error .doesNotFit

/-- The CAN controller's own position write, in millimetres (R254, R264). -/
def canSetPosition (mm : Rat) : Except HostError (List Line) := writeRaw .setTargetPosition (canIncrements mm)

/-- The CAN controller's own speed write, in millimetres per second (R255, R264). -/
def canSetSpeed (p : HostParams) (mmps : Rat) : Except HostError (List Line) :=
  writeRaw .setTrapezoidSpeed (canDeviceSpeedOfSurface p mmps)

/-- The CAN controller's own reading of a raw position, in millimetres (R252, R254, R264). -/
def canPosition (w : Word) : Rat := canMillimetres (sint32 w)

/-- The CAN controller's own reading of a raw speed, in millimetres per second (R252, R256, R264). -/
def canSpeed (p : HostParams) (w : Word) : Rat := canSurfaceSpeed p (sint32 w)

/-- `set_height(m)` (R258); on CAN over the controller's millimetres (R264). -/
def setHeight (t : Transport) (m : Rat) : Except HostError (List Line) :=
  match t with
  | .can => canSetPosition (millimetresOfMetres m)
  | .uart => writeRaw .setTargetPosition (uartIncrements m)

/-- `set_speed(mps)` (R260); on CAN over the controller's millimetres per second (R264). -/
def setSpeed (p : HostParams) (t : Transport) (mps : Rat) : Except HostError (List Line) :=
  match t with
  | .can => canSetSpeed p (mmPerSecondOfMPerSecond mps)
  | .uart => writeRaw .setTrapezoidSpeed (roundHalfAway (mps * p.kSpdUart))

/-- The READ that `get_height()` issues; on UART the reset markers are those of this very read (R259). `env` is what the
environment does while the host waits. -/
def getHeightRead (env : List EnvAct) : List Line := .read .actualPosition :: env.map .env

/-- The UMARK write that a UART read of a register needs first: UMARK1 the low index byte of its OD entry, UMARK0 the
class byte the host expects (R261, R263, R314). The OD entry is the host's own ODPEEK (R46). -/
def markerSet (od : OdTable) (r : OdName) (cls : Byte) : Line :=
  match od.lookup r.sel with
  | some e => .set .umark (0#16 ++ byteAt e.index 0 ++ cls)
  | none => .set .umark 0x6343#32

/-- The lines of one READ. On UART with its own UMARK setting, restored after DONE to `old`, what UMARK held before
(R263, R314); the restoring write leaves STATUS, RESULT and ABORTCODE as they are. `env` is what the environment does
while the host waits. -/
def readLines (t : Transport) (od : OdTable) (old : Word) (r : OdName) (cls : Byte) (env : List EnvAct) : List Line :=
  match t with
  | .can => .read r :: env.map .env
  | .uart => markerSet od r cls :: .read r :: env.map .env ++ [.set .umark old]

/-- The READ that `get_speed()` issues (R261). -/
def getSpeedRead (t : Transport) (od : OdTable) (old : Word) (cls : Byte) (env : List EnvAct) : List Line :=
  readLines t od old .actualSpeed cls env

/-- The height of a raw position: metres on CAN; on UART the two-element list of R259, R267. -/
def heightOf (p : HostParams) (t : Transport) (w : Word) : List Rat :=
  match t with
  | .can => [metresOfMillimetres (canPosition w)]
  | .uart => [uartHeight p (sint32 w), uartHeight p (sint32 w)]

/-- The speed of a raw speed, in metres per second (R261); free where the open factor, RPM_PER_MM_S on CAN and K_SPD_UART
on UART, is 0 (log 20). -/
def speedOf (p : HostParams) (t : Transport) (w : Word) : Rat :=
  match t with
  | .can => mPerSecondOfMmPerSecond (canSpeed p w)
  | .uart => perFactor (sint32 w) p.kSpdUart

/-- `get_height()` from the outcome of its READ: on success the height, else the block's own error (R259, R268). -/
def getHeight (p : HostParams) (t : Transport) (o : Except HostError Word) : Except HostError (List Rat) :=
  o.map (heightOf p t)

/-- `get_speed()` from the outcome of its READ: on success the speed, else the block's own error (R261, R268). -/
def getSpeed (p : HostParams) (t : Transport) (o : Except HostError Word) : Except HostError Rat :=
  o.map (speedOf p t)

/-! ### The facade on a block

The host selects the calibration set by the transport it opened, which it reads in STATUS.TSEL_ACT (R251, R31). -/

/-- The transport whose calibration set the host uses: STATUS.TSEL_ACT, bit 4 of what it reads at 0x20 (R251, R29). -/
def openedTransport (s : State) : Transport := Transport.ofBit (statusBit 4 s)

/-- A facade write on a block, `env` acting while the host waits: the lines are run unless a value did not fit (R253); the
block's error is passed on (R268); `none` if DONE never comes. -/
def runWrite (lines : Except HostError (List Line)) (env : List EnvAct) (s : State) : Option (Except HostError Unit) :=
  match lines with
  | .ok ls => (runLines (ls ++ env.map .env) s).outcome.map (Except.map fun _ => ())
  | .error e => some (.error e)

/-- `set_height(m)` on a block, with the calibration set of the opened transport (R251, R258). -/
def runSetHeight (m : Rat) (env : List EnvAct) (s : State) : Option (Except HostError Unit) :=
  runWrite (setHeight (openedTransport s) m) env s

/-- `set_speed(mps)` on a block, with the calibration set of the opened transport (R251, R260). -/
def runSetSpeed (p : HostParams) (mps : Rat) (env : List EnvAct) (s : State) : Option (Except HostError Unit) :=
  runWrite (setSpeed p (openedTransport s) mps) env s

/-- `get_height()` on a block, `env` acting while the host waits, with the calibration set of the opened transport; `none`
if DONE never comes (R251, R259). -/
def runGetHeight (p : HostParams) (env : List EnvAct) (s : State) : Option (Except HostError (List Rat)) :=
  (runLines (getHeightRead env) s).outcome.map (getHeight p (openedTransport s))

/-- `get_speed()` on a block, `env` acting while the host waits, with the calibration set of the opened transport; `none`
if DONE never comes (R251, R261). On UART `cls` is the class byte the host expects and UMARK is left as it was found
(R314). -/
def runGetSpeed (p : HostParams) (cls : Byte) (env : List EnvAct) (s : State) : Option (Except HostError Rat) :=
  let t := openedTransport s
  (runLines (getSpeedRead t s.cfg.od (hostRead 0x10 s) cls env) s).outcome.map (getSpeed p t)

/-- The combined error code: high word secondary, low word primary, upper bits dropped (R263). -/
def error32 (high low : Word) : Word := high.extractLsb' 0 16 ++ low.extractLsb' 0 16

/-- The four READs of `get_status()`, in order, each with what the environment does while the host waits; `cls32` and
`cls16` are the class bytes the host expects on UART for the two 4-byte and the two error-code registers, which the spec
leaves open, and `old` is what UMARK held before (R263, R314). -/
def getStatusReads (t : Transport) (od : OdTable) (old : Word) (cls32 cls16 : Byte)
    (envSpeed envHeight envLow envHigh : List EnvAct) : List (List Line) :=
  [readLines t od old .actualSpeed cls32 envSpeed, readLines t od old .actualPosition cls32 envHeight,
    readLines t od old .errorCodeLow cls16 envLow, readLines t od old .errorCodeHigh cls16 envHigh]

/-- The report of `get_status()` (R263). -/
structure StatusReport where
  speed : Rat
  height : List Rat
  error : Word
deriving DecidableEq, Repr

/-- `get_status()` from the outcomes of its four READs, in order: the first failure fails the whole (R263). -/
def getStatus (p : HostParams) (t : Transport) (speed height low high : Except HostError Word) :
    Except HostError StatusReport :=
  match speed with
  | .error e => .error e
  | .ok vs =>
    match height with
    | .error e => .error e
    | .ok vh =>
      match low with
      | .error e => .error e
      | .ok vl =>
        match high with
        | .error e => .error e
        | .ok vg => .ok ⟨speedOf p t vs, heightOf p t vh, error32 vg vl⟩

/-- The outcomes of programs run one after another; `none` if one does not come to DONE. -/
def outcomes : List (List Line) → State → Option (List (Except HostError Word))
  | [], _ => some []
  | ls :: rest, s =>
    match runLines ls s with
    | .finished s' =>
      match hostOutcome s' with
      | some o => (outcomes rest s').map (o :: ·)
      | none => none
    | .waiting _ => none
    | .fault _ => none
    | .refused _ => none

/-- `get_status()` on a block, with what the environment does during each of the four READs and the calibration set of
the opened transport; `none` if DONE never comes (R251, R263). UMARK is left as it was found (R314). -/
def runGetStatus (p : HostParams) (cls32 cls16 : Byte) (envSpeed envHeight envLow envHigh : List EnvAct)
    (s : State) : Option (Except HostError StatusReport) :=
  let t := openedTransport s
  match outcomes (getStatusReads t s.cfg.od (hostRead 0x10 s) cls32 cls16 envSpeed envHeight envLow envHigh) s with
  | some [speed, height, low, high] => some (getStatus p t speed height low high)
  | _ => none

/-! ### The actuator's power state, an environment component -/

/-- The seven power states, which the spec names and does not encode (R47, R243). -/
inductive PowerState where
  | notReady
  | switchOnDisabled
  | readyToSwitchOn
  | switchedOn
  | operationEnabled
  | quickStopActive
  | fault
deriving DecidableEq, Repr

/-- The value that a request frame writes to the object `e`, none if it writes another object or is a read (R85). -/
def writtenTo (e : OdEntry) (f : SdoFrame) : Option Word :=
  if f.index = e.index ∧ f.sub = e.sub ∧ (f.cmd = 0x2F#8 ∨ f.cmd = 0x2B#8 ∨ f.cmd = 0x23#8) then some f.payload
  else none

/-- The control words on the CAN trace, in order: the only thing that moves the power state (R243). -/
def controlWords (t : OdTable) (ctx : List CanTx) : List Word :=
  ctx.filterMap (fun f => writtenTo t.controlWord f.data)

/-- The logical frames of the UART trace: ten contiguous bytes each (R133). -/
def uartTraceFrames : List Byte → List SdoFrame
  | _ :: a :: b :: c :: d :: e :: f :: g :: h :: _ :: rest => ⟨a, b, c, d, e, f, g, h⟩ :: uartTraceFrames rest
  | _ => []

/-- The control words on the UART trace, in order (R243). -/
def controlWordsUart (t : OdTable) (utx : List Byte) : List Word :=
  (uartTraceFrames utx).filterMap (writtenTo t.controlWord)

/-- The power state after a sequence of control-word writes, for a transition function the spec leaves open (R243). -/
def powerAfter (next : PowerState → Word → PowerState) (p : PowerState) (ws : List Word) : PowerState :=
  ws.foldl next p

end Sys2Proof.HostSide
end

