-- ==== Sys2Proof/Safety.lean ====
section
/-! DEFINITION. What the rules say of every reachable state: the invariant `Inv` (10_state.md R30, R36, R37, R49,
41_transport_mux.md R141, R142, R149), and what a run may not end in. -/

namespace Sys2Proof.Machine

/-- BUSY, DONE, ERR, ERRKIND and ERRSTEP agree (R29, R30, R37, R49), and RESULT and ABORTCODE hold nothing that the
status does not vouch for (R34, R35, R291). -/
structure StatusInv (s : State) : Prop where
  idle_iff : s.phase = .idle ↔ s.busy = false
  busy_clear : s.busy = true → s.done = false ∧ s.err = false ∧ s.result = 0#32 ∧ s.abortCode = 0#32
  err_done : s.err = true → s.done = true ∧ s.result = 0#32
  err_kind : s.err = s.errKind.isSome
  no_err_step : s.err = false → s.errStep = 0#4
  abort_code : s.errKind ≠ some .deviceAbort → s.abortCode = 0#32
  err_step : s.errStep.toNat < 4
  cmd_upper : s.cmd.extractLsb' 24 8 = 0#8

/-- The engine's phase, step index, timer and window agree (R36, R37, R40, R44, R141, R142). -/
structure EngineInv (s : State) : Prop where
  quiet : s.phase ≠ .wait → s.armed = false ∧ s.texp = false ∧ s.rxCnt = 0 ∧ s.syncW = []
  idle_seq : s.phase = .idle → s.seq = 0#2
  issue_seq : s.phase = .issue → s.seq = 0#2 ∨ s.seq.toNat < (currentProg s).length
  wait_armed : s.phase = .wait → s.armed = true ∧ s.isOpen = true ∧ (currentStep s).isSome = true
  wait_can : s.phase = .wait → s.tselAct = .can → s.rxCnt = 0 ∧ s.syncW = []
  wait_uart : s.phase = .wait → s.tselAct = .uart → ∃ r, currentStep s = some (.rd r)
  rx_count : s.rxCnt = 0 ∨ (3 ≤ s.rxCnt ∧ s.rxCnt ≤ 9)
  window : s.syncW.length ≤ 2
  body_window : 3 ≤ s.rxCnt → s.syncW = []
  body_head : 3 ≤ s.rxCnt → s.rxBuf.sync = syncByteValue ∧ s.rxBuf.body.cmd = s.umark0 ∧ s.rxBuf.body.indexLo = s.umark1

/-- The connection and the receive queues agree (R31, R42, R43, R134, R135, R149, R218, R219). -/
structure QueueInv (s : State) : Prop where
  closed_empty : s.isOpen = false → s.urxq = [] ∧ s.crxq = []
  can_empty : s.tselAct = .can → s.urxq = []
  uart_empty : s.tselAct = .uart → s.crxq = []
  open_tsel : s.isOpen = true → s.tselAct = s.tsel
  urxq_depth : ∀ d, s.cfg.urxqDepth = some d → s.urxq.length ≤ d
  crxq_depth : ∀ d, s.cfg.crxqDepth = some d → s.crxq.length ≤ d
  crxq_masked : ∀ d ∈ s.crxq, dlcMask d.dlc d.data = d.data

/-- The invariant of every reachable state. -/
structure Inv (s : State) : Prop where
  status : StatusInv s
  engine : EngineInv s
  queues : QueueInv s

/-- A step that does not stop the machine: the engine always has a next state, an error completes the command (R276),
and nothing wedges it. -/
def Runs (r : Result) : Prop := ∃ t, r = .next t

end Sys2Proof.Machine
end

