-- ==== Sys2Proof/WellFormed.lean ====
section
/-! DEFINITION. Which instructions are well formed. The operands' widths are in their types; what is left are the
conditions that relate operands to each other or to the parameters: a request's checksum byte is the LRC of the nine
bytes before it (R95), an acknowledgement is WACK and not 0x80 (R94), a UART response carries the markers (R99). -/

namespace Sys2Proof

/-- Why an instruction is ill formed. -/
inductive WfError where
  /-- U[9] of a UART request is not `LRC(U[0..8])` (R95, R182). -/
  | badChecksum
  /-- The acknowledgement byte is 0x80, the abort class (R94). -/
  | ackIsAbort
  /-- The acknowledgement byte is not WACK (R94). -/
  | notWack
  /-- Marker byte 0 is not UMARK0 (R99). -/
  | wrongMark0
  /-- Marker byte 1 is not UMARK1 (R99). -/
  | wrongMark1
deriving DecidableEq, Repr

/-- The check of a UART request's checksum byte (R95). -/
def checkSumByte (f : SdoFrame) (chk : Byte) : Option WfError :=
  if (wrap f).check = chk then none else some .badChecksum

/-- The first condition an instruction breaks, or none. -/
def checkInstr (c : WireCtx) : Instr → Option WfError
  | .openConn _ _ => none
  | .closeConn _ _ => none
  | .read _ _ => none
  | .write _ _ => none
  | .resetError _ _ => none
  | .quickStop _ _ => none
  | .startMove _ _ => none
  | .setTargetPosition _ _ => none
  | .setTrapezoidSpeed _ _ => none
  | .setPosSpeed _ _ => none
  | .sdoRdReq _ _ => none
  | .sdoWr1Req _ _ _ => none
  | .sdoWr2Req _ _ _ => none
  | .sdoWr4Req _ _ _ => none
  | .sdoRd1Rsp _ _ _ _ => none
  | .sdoRd2Rsp _ _ _ _ => none
  | .sdoRd4Rsp _ _ _ => none
  | .sdoAbort _ _ _ => none
  | .sdoWrAck ack _ _ _ =>
    if ack = 0x80#8 then some .ackIsAbort else if ack = c.wack then none else some .notWack
  | .uartRdReq index sub chk =>
    checkSumByte ⟨0x40#8, byteAt index 0, byteAt index 1, sub, 0#8, 0#8, 0#8, 0#8⟩ chk
  | .uartWr1Req index sub v chk =>
    checkSumByte ⟨0x2F#8, byteAt index 0, byteAt index 1, sub, v, 0#8, 0#8, 0#8⟩ chk
  | .uartWr2Req index sub v chk =>
    checkSumByte ⟨0x2B#8, byteAt index 0, byteAt index 1, sub, byteAt v 0, byteAt v 1, 0#8, 0#8⟩ chk
  | .uartWr4Req index sub v chk =>
    checkSumByte ⟨0x23#8, byteAt index 0, byteAt index 1, sub, byteAt v 0, byteAt v 1, byteAt v 2, byteAt v 3⟩ chk
  | .uartRdRsp mark0 mark1 _ _ _ _ =>
    if mark0 ≠ c.umark0 then some .wrongMark0 else if mark1 ≠ c.umark1 then some .wrongMark1 else none
  | .canReqId _ => none
  | .canRspId _ => none

/-- An instruction is well formed if it breaks no condition. -/
abbrev WellFormed (c : WireCtx) (i : Instr) : Prop := checkInstr c i = none

end Sys2Proof
end

