-- ==== Sys2Proof/Certificates/Slice0/Obligations.lean ====
section
/-! DEFINITION. The statements for the provers. The vocabulary they share, written from the rules and not from the
model's operations, stands first; then one `def Obligations.<Name> : Prop` per statement. -/

/-! ### Vocabulary -/

namespace Sys2Proof.Claims

open Sys2Proof.Machine

/-- The fifteen OD entries in selector order (R81, R110). -/
def entries (t : OdTable) : List OdEntry :=
  [t.controlWord, t.statusWord, t.operationMode, t.actualPosition, t.targetPosition, t.actualSpeed, t.targetSpeed,
    t.actualCurrent, t.targetCurrent, t.currentLimit, t.posSoftLimit, t.negSoftLimit, t.speedLimit, t.errorCodeLow,
    t.errorCodeHigh]

/-- An entry's length hint as a write length, where it is one (R126). -/
def hintLen (e : OdEntry) : Option WriteLen :=
  if e.len = 1#3 then some .one else if e.len = 2#3 then some .two else if e.len = 4#3 then some .four else none

/-- The LEN byte that stands for a write length (R82). -/
def lenByte : WriteLen → Byte
  | .one => 1#8
  | .two => 2#8
  | .four => 4#8

/-- The read request for an entry (R86). -/
def readRequest (e : OdEntry) : SdoFrame := ⟨0x40#8, byteAt e.index 0, byteAt e.index 1, e.sub, 0#8, 0#8, 0#8, 0#8⟩

/-- The write request for an entry: the low bytes of `v`, padded with zero bytes (R85, R87 to R89). -/
def writeRequest (e : OdEntry) (v : Word) : WriteLen → SdoFrame
  | .one => ⟨0x2F#8, byteAt e.index 0, byteAt e.index 1, e.sub, byteAt v 0, 0#8, 0#8, 0#8⟩
  | .two => ⟨0x2B#8, byteAt e.index 0, byteAt e.index 1, e.sub, byteAt v 0, byteAt v 1, 0#8, 0#8⟩
  | .four => ⟨0x23#8, byteAt e.index 0, byteAt e.index 1, e.sub, byteAt v 0, byteAt v 1, byteAt v 2, byteAt v 3⟩

/-- The ten bytes of a wrapped frame (R182). -/
def wrapped (f : SdoFrame) : List Byte := 0x7F#8 :: f.bytes ++ [lrc (0x7F#8 :: f.bytes)]

/-- The state after the frame has been sent on CAN, under identifier `0b1100 nnnnnnn` (R96, R132, R140). -/
def sentCan (f : SdoFrame) (s : State) : State :=
  { s with
    txBuf := ⟨0x7F#8, f, lrc (0x7F#8 :: f.bytes)⟩
    ctx := s.ctx ++ [⟨0b1100#4 ++ s.nodeId, 8#4, f⟩] }

/-- The state after the frame has been sent on UART (R133, R140). -/
def sentUart (f : SdoFrame) (s : State) : State :=
  { s with txBuf := ⟨0x7F#8, f, lrc (0x7F#8 :: f.bytes)⟩, utx := s.utx ++ wrapped f }

/-- The state at the start of a receive phase (R141). -/
def awaiting (s : State) : State :=
  { s with rxCnt := 0, syncW := [], armed := true, texp := decide (s.timeout = 0#32), phase := .wait }

/-- The state after completion without error (R214). -/
def completed (s : State) : State :=
  { s with
    busy := false, done := true, phase := .idle, seq := 0#2, rxCnt := 0, syncW := [], armed := false, texp := false }

/-- The state at the issue of the next step of the micro-program (R213, R142). -/
def advanced (s : State) : State :=
  { s with seq := s.seq + 1#2, phase := .issue, rxCnt := 0, syncW := [], armed := false, texp := false }

/-- The state after an error of a kind other than DeviceAbort (R276). -/
def failed (k : ErrKind) (s : State) : State :=
  { s with
    errKind := some k, errStep := 0#2 ++ s.seq, err := true, done := true, busy := false, result := 0#32,
    abortCode := 0#32, phase := .idle, seq := 0#2, rxCnt := 0, syncW := [], armed := false, texp := false }

/-- The state after a DeviceAbort that carries `code` (R274, R276). -/
def aborted (code : Word) (s : State) : State := { failed .deviceAbort s with abortCode := code }

/-- The engine is about to issue a step on an open connection (R37, R213). -/
def Issuing (t : Transport) (s : State) : Prop := s.phase = .issue ∧ s.isOpen = true ∧ s.tselAct = t

/-- The engine is in a receive phase (R37, R141). -/
def Awaiting (t : Transport) (s : State) : Prop := s.phase = .wait ∧ s.tselAct = t

/-- The current step is the read step of READ (R212). -/
def ReadStep (s : State) : Prop := byteAt s.cmd 0 = 0x10#8 ∧ s.seq = 0#2

/-- How many write steps the command with operation code `op` has (R212). -/
def writeSteps (op : Byte) : Nat :=
  if op = 0x11#8 ∨ op = 0x20#8 ∨ op = 0x21#8 ∨ op = 0x23#8 ∨ op = 0x24#8 then 1
  else if op = 0x22#8 then 3
  else if op = 0x25#8 then 4
  else 0

/-- The current step is a write step (R212). -/
def WriteStep (s : State) : Prop := s.seq.toNat < writeSteps (byteAt s.cmd 0)

/-- The state after the acknowledgement of the current write step: the command completes after its last step (R213). -/
def afterAck (s : State) : State :=
  if s.seq.toNat + 1 = writeSteps (byteAt s.cmd 0) then completed s else advanced s

/-- The state after a write request has gone out on UART, where no response is awaited: the command completes after its
last step and goes on to the next one otherwise (R184, R213). -/
def afterUartWrite (s : State) : State :=
  if s.seq.toNat + 1 = writeSteps (byteAt s.cmd 0) then completed s else { s with seq := s.seq + 1#2, phase := .issue }

/-- The writes of a motor command, in order: entry and value (R212, R232 to R239). -/
def motorWrites (s : State) (op : Byte) : List (OdEntry × Word) :=
  if op = 0x20#8 then [(s.cfg.od.controlWord, 0x86#32)]
  else if op = 0x21#8 then [(s.cfg.od.controlWord, 0x0B#32)]
  else if op = 0x22#8 then
    [(s.cfg.od.controlWord, 0x2F#32), (s.cfg.od.operationMode, 0x01#32), (s.cfg.od.controlWord, 0x3F#32)]
  else if op = 0x23#8 then [(s.cfg.od.targetPosition, s.arg0)]
  else if op = 0x24#8 then [(s.cfg.od.targetSpeed, s.arg0)]
  else if op = 0x25#8 then
    [(s.cfg.od.controlWord, 0x2F#32), (s.cfg.od.targetPosition, s.arg0), (s.cfg.od.targetSpeed, s.arg1),
      (s.cfg.od.controlWord, 0x3F#32)]
  else []

/-- The frame of one of those writes, with the entry's own length hint (R231); four bytes where the hint is no length. -/
def motorFrame (w : OdEntry × Word) : SdoFrame := writeRequest w.1 w.2 ((hintLen w.1).getD .four)

/-- The state with the CAN frame at the head of CRXQ taken into RXBUF (R145, R146). -/
def tookCan (f : SdoFrame) (s : State) : State := { s with crxq := s.crxq.tail, rxBuf := { s.rxBuf with body := f } }

/-- The frame `f`, of data length code 8, is at the head of CRXQ (R43). -/
def HeadFrame (f : SdoFrame) (s : State) : Prop := s.crxq.head? = some ⟨8#4, f⟩

/-- The three bytes `7F UMARK0 UMARK1` stand at position `p` of a stream (R187). -/
def MatchAt (s : State) (stream : List Byte) (p : Nat) : Prop :=
  stream[p]? = some 0x7F#8 ∧ stream[p + 1]? = some s.umark0 ∧ stream[p + 2]? = some s.umark1

/-- A queue of `n` items has room under a capacity; `none` is infinite (R42, R43). -/
def Room (depth : Option Nat) (n : Nat) : Prop := ∀ d, depth = some d → n < d

/-- The next event is one the engine runs: an engine event, or none is scheduled. -/
def EngineNext (s : State) : Prop := s.schedule = [] ∨ s.schedule.head? = some .engine

/-- An operation code of R80. -/
def DefinedOp (op : Byte) : Prop :=
  op = 0x01#8 ∨ op = 0x02#8 ∨ op = 0x10#8 ∨ op = 0x11#8 ∨ op = 0x20#8 ∨ op = 0x21#8 ∨ op = 0x22#8 ∨ op = 0x23#8 ∨
    op = 0x24#8 ∨ op = 0x25#8

/-- The sum of the bytes as numbers. -/
def natSum (bs : List Byte) : Nat := (bs.map BitVec.toNat).sum

/-- The values of R50, the traces left out. -/
def ResetValues (p : Params) (t : State) : Prop :=
  t.tsel = .can ∧ t.nodeId = 0#7 ∧ t.timeout = p.timeoutReset ∧ t.baudDiv = p.baudDivReset ∧ t.umark0 = 0x43#8 ∧
    t.umark1 = 0x63#8 ∧ t.cmd = 0#32 ∧ t.arg0 = 0#32 ∧ t.arg1 = 0#32 ∧ statusWord t = 0#32 ∧ t.result = 0#32 ∧
    t.abortCode = 0#32 ∧ t.seq = 0#2 ∧ t.phase = .idle ∧ t.txBuf.bytes = List.replicate 10 0#8 ∧
    t.rxBuf.bytes = List.replicate 10 0#8 ∧ t.rxCnt = 0 ∧ t.syncW = [] ∧ t.urxq = [] ∧ t.crxq = [] ∧
    t.armed = false ∧ t.texp = false ∧ t.cfg = p

/-- The data bytes as CRXQ records them: those at and beyond the data length code are 0 (R137). -/
def RecordedData (f : CanRxFrame) (d : SdoFrame) : Prop :=
  ∀ k, k < 8 → d.bytes[k]? = if k < f.dlc.toNat then f.data.bytes[k]? else some 0#8

/-- A state without its sticky flags. -/
def eraseSticky (s : State) : State := { s with cmdOvr := false, urxOvr := false, crxOvr := false }

/-- A step's outcome without the sticky flags. -/
def eraseStickyOutcome : Result → Result
  | .next s => .next (eraseSticky s)
  | .fault r => .fault r
  | .refused r => .refused r

/-- The class byte of the read response that echoes a payload of this length (R166). -/
def readClass : WriteLen → Byte
  | .one => 0x4F#8
  | .two => 0x4B#8
  | .four => 0x43#8

/-- The host register masks: the bits that are not reserved (R20). -/
def registerMask (addr : Nat) : Word :=
  if addr = 0x00 then 0x00000001#32
  else if addr = 0x04 then 0x0000007F#32
  else if addr = 0x08 then 0xFFFFFFFF#32
  else if addr = 0x0C then 0x0000FFFF#32
  else if addr = 0x10 then 0x0000FFFF#32
  else if addr = 0x14 then 0x00FFFFFF#32
  else if addr = 0x18 then 0xFFFFFFFF#32
  else if addr = 0x1C then 0xFFFFFFFF#32
  else 0#32

end Sys2Proof.Claims

section

open Sys2Proof Sys2Proof.Machine Sys2Proof.Claims

/-! ### Encoding -/

/-- Decoding the encoding of a well-formed instruction gives the instruction back, for every operand value
(R80, R84 to R96). -/
def Obligations.DecodeOfEncode : Prop :=
  ∀ (c : WireCtx) (i : Instr), WellFormed c i → decode c (encode i) = .ok i

/-- No bit of a frame or identifier is dropped by decoding, and of a command word only the reserved bits 31:24 are
(R80, R83 d). The bits are compared as bytes; that a command word and an identifier are written least significant byte first
there is the MODEL's choice (log 32). -/
def Obligations.DecodingKeepsEveryBit : Prop :=
  ∀ (c : WireCtx) (w : Wire) (i : Instr), decode c w = .ok i →
    (encode i).bytes =
      match w with
      | .command x => (Wire.command (x &&& 0x00FFFFFF#32)).bytes
      | w => w.bytes

/-- Words written out from the spec's encodings decode to the instructions they stand for (R80, R86 to R95; the examples
of 44_host_ops.md R216, R217 and 42_sdo_codec.md R160, R162, R166, R170). -/
def Obligations.WrittenOutWordsDecode : Prop :=
  decodeCommand 0x00000310#32 = .ok (.read 3#8 0#8) ∧
  decodeCommand 0x00040411#32 = .ok (.write 4#8 4#8) ∧
  decodeRequest ⟨0x40#8, 0x63#8, 0x60#8, 0x00#8, 0x00#8, 0x00#8, 0x00#8, 0x00#8⟩ = .ok (.sdoRdReq 0x6063#16 0#8) ∧
  decodeRequest ⟨0x23#8, 0x7A#8, 0x60#8, 0x00#8, 0x00#8, 0xC0#8, 0x45#8, 0x00#8⟩ =
    .ok (.sdoWr4Req 0x607A#16 0#8 4571136#32) ∧
  decodeReadResponse ⟨0x4B#8, 0x63#8, 0x60#8, 0x00#8, 0x34#8, 0x12#8, 0xFF#8, 0xFF#8⟩ =
    .ok (.sdoRd2Rsp 0x6063#16 0#8 0x1234#16 0xFFFF#16) ∧
  decodeWriteResponse 0x60#8 ⟨0x80#8, 0x7A#8, 0x60#8, 0x00#8, 0x30#8, 0x00#8, 0x09#8, 0x06#8⟩ =
    .ok (.sdoAbort 0x607A#16 0#8 0x06090030#32) ∧
  decodeUartResponse 0x43#8 0x63#8 ⟨0x7F#8, ⟨0x43#8, 0x63#8, 0x60#8, 0x00#8, 0x00#8, 0xC0#8, 0x45#8, 0x00#8⟩, 0x76#8⟩ =
    .ok (.uartRdRsp 0x43#8 0x63#8 0x60#8 0x00#8 4571136#32 0x76#8) ∧
  decodeCanId 0x601#11 = .ok (.canReqId 1#7) ∧ decodeCanId 0x581#11 = .ok (.canRspId 1#7)

/-- The reserved host encodings and what each does (R83). -/
def Obligations.ReservedHostEncodings : Prop :=
  (∀ (s : State) (w : Word), s.busy = false → s.schedule = [] → ¬ DefinedOp (byteAt w 0) →
    (hostWrite 0x14 w s).busy = true ∧
      step (hostWrite 0x14 w s) = .next (failed .usageError (hostWrite 0x14 w s))) ∧
  (∀ (t : Transport) (s : State) (reg len : Byte), Issuing t s → s.seq = 0#2 → 15 ≤ reg.toNat →
    exec (.read reg len) s = .next (failed .usageError s) ∧ exec (.write reg len) s = .next (failed .usageError s)) ∧
  (∀ (t : Transport) (s : State) (reg len : Byte), Issuing t s → s.seq = 0#2 → reg.toNat < 15 →
    len ≠ 1#8 → len ≠ 2#8 → len ≠ 4#8 → exec (.write reg len) s = .next (failed .usageError s)) ∧
  (∀ (s : State) (w : Word), hostWrite 0x14 w s = hostWrite 0x14 (w &&& 0x00FFFFFF#32) s) ∧
  (∀ (s : State) (r l r' l' : Byte),
    exec (.read r l) s = exec (.read r l') s ∧
    exec (.openConn r l) s = exec (.openConn r' l') s ∧ exec (.closeConn r l) s = exec (.closeConn r' l') s ∧
    exec (.resetError r l) s = exec (.resetError r' l') s ∧ exec (.quickStop r l) s = exec (.quickStop r' l') s ∧
    exec (.startMove r l) s = exec (.startMove r' l') s ∧
    exec (.setTargetPosition r l) s = exec (.setTargetPosition r' l') s ∧
    exec (.setTrapezoidSpeed r l) s = exec (.setTrapezoidSpeed r' l') s ∧
    exec (.setPosSpeed r l) s = exec (.setPosSpeed r' l') s)

/-! ### Checksum, wrapper, codecs -/

/-- `LRC(B) = (256 - (sum mod 256)) mod 256`, for a byte sequence of any length (R180). -/
def Obligations.LrcIsTheNegatedSum : Prop :=
  (∀ bs : List Byte, (lrc bs).toNat = (256 - natSum bs % 256) % 256) ∧
  lrc (List.replicate 9 0x00#8) = 0x00#8 ∧ lrc (List.replicate 9 0xFF#8) = 0x09#8 ∧
  lrc [0x7F#8, 0x40#8, 0x63#8, 0x60#8, 0x00#8, 0x00#8, 0x00#8, 0x00#8, 0x00#8] = 0x7E#8

/-- The LRC's defining property, its uniqueness, and what the validator detects and does not detect (R181). -/
def Obligations.LrcDetectsEveryOneByteChange : Prop :=
  (∀ (bs : List Byte) (c : Byte), bs.length = 9 → (natSum (bs ++ [c]) % 256 = 0 ↔ c = lrc bs)) ∧
  (∀ (u : UartFrame) (i : Nat) (b : Byte), lrcOk u = true → i < 10 → u.bytes[i]? ≠ some b →
    lrcOk (u.setByte i b) = false) ∧
  (∀ u v : UartFrame, lrcOk u = true → natSum v.bytes % 256 = natSum u.bytes % 256 → lrcOk v = true) ∧
  (∀ u v : UartFrame, lrcOk u = true → List.Perm v.bytes u.bytes → lrcOk v = true)

/-- The checksum validator is true exactly when the ten bytes sum to 0 modulo 256 (R190). -/
def Obligations.ValidatorIsZeroSum : Prop :=
  (∀ u : UartFrame, lrcOk u = true ↔ lrc (u.bytes.take 9) = u.check) ∧
  (∀ u : UartFrame, lrcOk u = true ↔ natSum u.bytes % 256 = 0) ∧
  lrcOk ⟨0x7F#8, ⟨0x43#8, 0x63#8, 0x60#8, 0x00#8, 0x00#8, 0xC0#8, 0x45#8, 0x00#8⟩, 0x76#8⟩ = true ∧
  lrcOk ⟨0x7F#8, ⟨0x43#8, 0x63#8, 0x60#8, 0x00#8, 0x00#8, 0xC0#8, 0x45#8, 0x00#8⟩, 0x77#8⟩ = false ∧
  lrcOk ⟨0x7F#8, ⟨0x43#8, 0x63#8, 0x60#8, 0x00#8, 0x00#8, 0xC1#8, 0x45#8, 0x00#8⟩, 0x76#8⟩ = false

/-- `Wrap(F)` is the sync byte, the frame and its checksum, and always passes the validator (R182, R190). -/
def Obligations.WrapIsValid : Prop :=
  ∀ f : SdoFrame, (wrap f).bytes = wrapped f ∧ (wrap f).bytes.length = 10 ∧ lrcOk (wrap f) = true

/-- The encoders' requests decode as the requests R86 to R89 describe: the value's low bytes and zero padding. -/
def Obligations.EncodedRequestsDecode : Prop :=
  ∀ (index : Half) (sub : Byte) (v : Word),
    decodeRequest (encodeRead index sub) = .ok (.sdoRdReq index sub) ∧
    decodeRequest (encodeWrite index sub v .one) = .ok (.sdoWr1Req index sub (v.setWidth 8)) ∧
    decodeRequest (encodeWrite index sub v .two) = .ok (.sdoWr2Req index sub (v.setWidth 16)) ∧
    decodeRequest (encodeWrite index sub v .four) = .ok (.sdoWr4Req index sub v)

/-- A response that echoes a write's payload with the matching read class returns the value modulo `2^(8n)`
(95_test_vectors.md T9). -/
def Obligations.EchoedWriteReadsBack : Prop :=
  ∀ (index : Half) (sub : Byte) (v : Word) (n : WriteLen),
    decodeResponse { encodeWrite index sub v n with cmd := readClass n } =
      .value (BitVec.ofNat 32 (v.toNat % 2 ^ (8 * n.bytes)))

/-- The values of the read classes: unsigned, little-endian, zero-extended to 32 bits; payload bytes beyond the value's
width are ignored (R166). -/
def Obligations.ReadClassesZeroExtend : Prop :=
  ∀ f : SdoFrame,
    (f.cmd = 0x4F#8 → ∃ w, decodeResponse f = .value w ∧ w.toNat = f.p0.toNat) ∧
    (f.cmd = 0x4B#8 → ∃ w, decodeResponse f = .value w ∧ w.toNat = f.p0.toNat + 256 * f.p1.toNat) ∧
    (f.cmd = 0x43#8 → ∃ w, decodeResponse f = .value w ∧
      w.toNat = f.p0.toNat + 256 * f.p1.toNat + 65536 * f.p2.toNat + 16777216 * f.p3.toNat)

/-! ### The sync detector -/

/-- Fed a stream whose first `7F UMARK0 UMARK1` stands at the head of the frame `u`, the receive phase of a READ takes
exactly the garbage and the ten bytes of `u`, and completes with the value of `u`, or with ChecksumMismatch if its checksum
is wrong; the bytes after `u` stay queued (43_framed_codec.md R186 to R194, 95_test_vectors.md T3). One byte a step is the
model's choice of the two that 44_host_ops.md R220 allows (log 14). -/
def Obligations.DetectorTakesTheFirstFrame : Prop :=
  ∀ (s : State) (garbage rest : List Byte) (u : UartFrame),
    s.schedule = [] → Awaiting .uart s → ReadStep s → s.syncW = [] → s.rxCnt = 0 →
    u.sync = 0x7F#8 → u.body.cmd = s.umark0 → u.body.indexLo = s.umark1 →
    s.urxq = garbage ++ u.bytes ++ rest →
    (∀ p, p < garbage.length → ¬ MatchAt s (garbage ++ u.bytes) p) →
    HostSide.settle (garbage.length + 10) s =
      .next (if lrcOk u = true then completed { s with urxq := rest, rxBuf := u, result := u.body.payload }
        else failed .checksumMismatch { s with urxq := rest, rxBuf := u })

/-- Garbage of any length and content cannot wedge the detector: with no match in what has arrived before the deadline,
the scan consumes all of it and the command ends in Timeout (43_framed_codec.md R187, R189). One byte a step is the model's
choice of the two that 44_host_ops.md R220 allows (log 14). -/
def Obligations.GarbageEndsInTimeout : Prop :=
  ∀ s : State, s.schedule = [] → Awaiting .uart s → ReadStep s → s.syncW = [] → s.rxCnt = 0 → s.texp = true →
    (∀ p, ¬ MatchAt s s.urxq p) →
    HostSide.settle (s.urxq.length + 1) s = .next (failed .timeout { s with urxq := [] })

/-- A frame cut short by the deadline is lost as a whole: while the command runs the queued bytes go to RXBUF behind those
it has taken already, then it ends in Timeout, the bytes taken are gone and RESULT is 0. Nothing is said of RXBUF beyond the
bytes this command has put there, nor after it (43_framed_codec.md R189, R142; 10_state.md R52). One byte a step is the
model's choice of the two that 44_host_ops.md R220 allows (log 14). -/
def Obligations.TruncatedFrameEndsInTimeout : Prop :=
  ∀ s : State, s.schedule = [] → Awaiting .uart s → ReadStep s → s.texp = true → 3 ≤ s.rxCnt →
    s.rxCnt + s.urxq.length < 10 →
    ∃ b b',
      HostSide.settle s.urxq.length s =
        .next { s with urxq := [], rxBuf := b, rxCnt := s.rxCnt + s.urxq.length } ∧
      (∀ k, k < s.rxCnt + s.urxq.length → b.bytes[k]? =
        if k < s.rxCnt then s.rxBuf.bytes[k]? else s.urxq[k - s.rxCnt]?) ∧
      HostSide.settle (s.urxq.length + 1) s = .next (failed .timeout { s with urxq := [], rxBuf := b' })

/-! ### The step -/

/-- A step runs the instruction it fetches: from CMD in ISSUE, from the head of CRXQ or at the tenth byte of URXQ in WAIT
(44_host_ops.md R213, R220). The MODEL's own choices, which no rule states: that a step with an empty schedule is an engine
step and that a scheduled engine event is taken off the schedule first (log 4, 5); that a response is run as an instruction,
and a response identifier when its frame arrives on `can_rx` (log 8, 10; the frame's arrival is 41_transport_mux.md R134). -/
def Obligations.StepRunsFetchedInstruction : Prop :=
  (∀ (s : State) (i : Instr), s.schedule = [] → s.phase = .issue → decodeCommand s.cmd = .ok i → step s = exec i s) ∧
  (∀ (s : State) (i : Instr) (f : SdoFrame), s.schedule = [] → Awaiting .can s → HeadFrame f s → ReadStep s →
    decodeReadResponse f = .ok i → step s = exec i s) ∧
  (∀ (s : State) (i : Instr) (f : SdoFrame), s.schedule = [] → Awaiting .can s → HeadFrame f s → WriteStep s →
    decodeWriteResponse s.cfg.wack f = .ok i → step s = exec i s) ∧
  (∀ (s : State) (i : Instr) (b : Byte), s.schedule = [] → Awaiting .uart s → s.urxq.head? = some b → 9 ≤ s.rxCnt →
    decodeUartResponse s.umark0 s.umark1 (s.rxBuf.setByte 9 b) = .ok i → step s = exec i s) ∧
  (∀ (s : State) (i : Instr) (f : CanRxFrame) (id : BitVec 11), s.schedule.head? = some (.canRx f) →
    f.ident = .std id → decodeResponseId id = .ok i → step s = exec i s) ∧
  (∀ s : State, s.schedule = [] → step s = engineStep s) ∧
  (∀ (s : State) (rest : List Event), s.schedule = .engine :: rest → step s = engineStep { s with schedule := rest })

/-- Wherever an instruction is placed for the next step, that step runs it: the request frames, the response frames and
the identifiers are the frames the commands send and take (model's own placing, log 8 and 18). -/
def Obligations.PlacedInstructionRuns : Prop :=
  ∀ (i : Instr) (s : State), step (place i s) = exec i (place i s)

/-- The invariant holds right after reset, for every value of the open parameters (R50). -/
def Obligations.ResetMeetsInvariant : Prop :=
  Inv State.reset ∧ ∀ p : Params, Inv (State.resetOf p)

/-- Every step keeps the invariant of R30, R36, R37, R49, R141, R142 and R149. -/
def Obligations.StepKeepsInvariant : Prop :=
  ∀ s t : State, Inv s → step s = .next t → Inv t

/-- From a state that meets the invariant every step has a next state: no event wedges the block (00_scope.md R11). -/
def Obligations.EveryStepHasANextState : Prop :=
  ∀ s : State, Inv s → Runs (step s)

/-- From a state that meets the invariant, with an expired deadline at every receive phase and no further events, the
command completes within as many engine steps as items are queued and eight more (44_host_ops.md R222). That premise is the
model's (log 19): it stands in for the fairness that R222 and 70_reset_and_hazards.md R322 assume of the environment. -/
def Obligations.EveryCommandCompletes : Prop :=
  ∀ s : State, Inv s → s.schedule = [] → s.timeout = 0#32 → (s.phase = .wait → s.texp = true) →
    ∃ t, HostSide.settle (s.urxq.length + s.crxq.length + 8) s = .next t ∧ t.phase = .idle ∧ t.busy = false

/-- No step changes the parameters, the OD ROM among them (10_state.md R46, 20_memory.md R76). -/
def Obligations.StepKeepsParameters : Prop :=
  ∀ s t : State, step s = .next t → t.cfg = s.cfg

/-- Other than at reset the traces change only in an engine step of an accepted command with OPEN = 1, and then by
exactly one request on the active transport (44_host_ops.md R215, R73, 95_test_vectors.md T6). -/
def Obligations.OnlyOpenIssueStepsTransmit : Prop :=
  ∀ s t : State, s.schedule.head? ≠ some .reset → step s = .next t →
    (t.ctx = s.ctx ∧ t.utx = s.utx) ∨
    (EngineNext s ∧ s.phase = .issue ∧ s.isOpen = true ∧
      ∃ f : SdoFrame,
        (s.tselAct = .can ∧ t.ctx = s.ctx ++ [⟨0b1100#4 ++ s.nodeId, 8#4, f⟩] ∧ t.utx = s.utx) ∨
        (s.tselAct = .uart ∧ t.utx = s.utx ++ wrapped f ∧ t.ctx = s.ctx))

/-- A step that raises UsageError or NotConnected transmits nothing (60_exceptions.md R275, R277). -/
def Obligations.RefusedRequestsSendNothing : Prop :=
  ∀ s t : State, s.schedule.head? ≠ some .reset → s.errKind = none → step s = .next t →
    (t.errKind = some .usageError ∨ t.errKind = some .notConnected) → t.ctx = s.ctx ∧ t.utx = s.utx

/-- Which error kinds a step can raise on each transport: on UART no MalformedResponse and no DeviceAbort, on CAN no
ChecksumMismatch (43_framed_codec.md R191, R195; 60_exceptions.md R273). -/
def Obligations.ErrorKindsByTransport : Prop :=
  ∀ s t : State, Inv s → s.errKind = none → step s = .next t →
    (s.tselAct = .uart → t.errKind ≠ some .malformedResponse ∧ t.errKind ≠ some .deviceAbort) ∧
    (s.tselAct = .can → t.errKind ≠ some .checksumMismatch)

/-- The mode bits OPEN, TSEL_ACT and BUSY change only as R287 says. -/
def Obligations.ModeTransitions : Prop :=
  ∀ s t : State, s.schedule.head? ≠ some .reset → step s = .next t →
    (s.isOpen = false → t.isOpen = true →
      EngineNext s ∧ s.phase = .issue ∧ byteAt s.cmd 0 = 0x01#8) ∧
    (s.isOpen = true → t.isOpen = false →
      EngineNext s ∧ s.phase = .issue ∧ byteAt s.cmd 0 = 0x02#8 ∧ t.urxq = [] ∧ t.crxq = []) ∧
    (t.tselAct ≠ s.tselAct →
      EngineNext s ∧ s.phase = .issue ∧ byteAt s.cmd 0 = 0x01#8 ∧ s.isOpen = false ∧ t.tselAct = s.tsel) ∧
    (s.busy = false → t.busy = true → ∃ w, s.schedule.head? = some (.hostWrite 0x14 w)) ∧
    (s.busy = true → t.busy = false → t.done = true ∧ t.phase = .idle)

/-- The sticky flags change no outcome: two runs of a step that differ only in them differ afterwards only in them. A
host read is left out, since it reads STATUS (60_exceptions.md R290, 10_state.md R33). -/
def Obligations.StickyFlagsChangeNoOutcome : Prop :=
  ∀ (s : State) (a b c : Bool), (∀ addr, s.schedule.head? ≠ some (.hostRead addr)) →
    eraseStickyOutcome (step { s with cmdOvr := a, urxOvr := b, crxOvr := c }) = eraseStickyOutcome (step s)

/-- In a receive phase with an empty queue the engine waits, or raises Timeout once the timer has expired. The Timeout
clause is 60_exceptions.md R271's. The clause on waiting is the MODEL's choice (log 5): by 41_transport_mux.md R144 and R145
the engine then has no step and waits, and the model's step leaves the state as it is. -/
def Obligations.EmptyQueueWaitsOrTimesOut : Prop :=
  ∀ (s : State) (t : Transport), s.schedule = [] → Awaiting t s →
    (t = .can → s.crxq = []) → (t = .uart → s.urxq = []) →
    (s.texp = false → step s = .next s) ∧ (s.texp = true → step s = .next (failed .timeout s))

/-- A CAN response whose data length code is not 8 is consumed and raises MalformedResponse, whatever its class byte
(41_transport_mux.md R146, 60_exceptions.md R278). -/
def Obligations.WrongLengthIsMalformed : Prop :=
  ∀ (s : State) (d : CanData) (q : List CanData), s.schedule = [] → Awaiting .can s → s.crxq = d :: q → d.dlc ≠ 8#4 →
    step s = .next (failed .malformedResponse { s with crxq := q })

/-- In a read step a response whose class byte is none of 0x4F, 0x4B, 0x43, 0x80 is consumed and raises
MalformedResponse (30_encoding.md R97). -/
def Obligations.UnexpectedReadClassIsMalformed : Prop :=
  ∀ (s : State) (f : SdoFrame), s.schedule = [] → Awaiting .can s → ReadStep s → HeadFrame f s →
    f.cmd ≠ 0x4F#8 → f.cmd ≠ 0x4B#8 → f.cmd ≠ 0x43#8 → f.cmd ≠ 0x80#8 →
    step s = .next (failed .malformedResponse (tookCan f s))

/-- In a write step a response is judged by its class byte: 0x80 first, which is DeviceAbort with the little-endian code
of the payload, then WACK, which ends the step, and anything else is MalformedResponse (30_encoding.md R98,
42_sdo_codec.md R170). -/
def Obligations.WriteResponsesAreClassified : Prop :=
  ∀ (s : State) (f : SdoFrame), s.schedule = [] → Awaiting .can s → WriteStep s → HeadFrame f s →
    (f.cmd = 0x80#8 → step s = .next (aborted (BitVec.ofNat 32
      (f.p0.toNat + 256 * f.p1.toNat + 65536 * f.p2.toNat + 16777216 * f.p3.toNat)) (tookCan f s))) ∧
    (f.cmd ≠ 0x80#8 → f.cmd = s.cfg.wack → step s = .next (afterAck (tookCan f s))) ∧
    (f.cmd ≠ 0x80#8 → f.cmd ≠ s.cfg.wack → step s = .next (failed .malformedResponse (tookCan f s)))

/-! ### The host commands -/

/-- OPEN completes: on a closed connection it takes the transport of CTRL.TSEL and empties the queues; on an open one it
changes nothing but the completion fields (R218). -/
def Obligations.OpenCompletes : Prop :=
  ∀ (s : State) (reg len : Byte), s.phase = .issue →
    exec (.openConn reg len) s =
      .next (completed (if s.isOpen = true then s
        else { s with tselAct := s.tsel, urxq := [], crxq := [], isOpen := true }))

/-- CLOSE completes: OPEN is cleared, the queues are empty, TSEL_ACT keeps its value (R219). -/
def Obligations.CloseCompletes : Prop :=
  ∀ (s : State) (reg len : Byte), s.phase = .issue →
    exec (.closeConn reg len) s = .next (completed { s with isOpen := false, urxq := [], crxq := [] })

/-- Every command other than OPEN and CLOSE raises NotConnected on a closed connection, with ERRSTEP 0 and nothing sent;
OPEN and CLOSE never raise it (R277). -/
def Obligations.ClosedConnectionRaisesNotConnected : Prop :=
  ∀ (s : State) (w : Word) (i : Instr), s.phase = .issue → s.seq = 0#2 → decodeCommand w = .ok i →
    (byteAt w 0 = 0x01#8 ∨ byteAt w 0 = 0x02#8 → ∃ t, exec i s = .next t ∧ t.errKind = s.errKind) ∧
    (byteAt w 0 ≠ 0x01#8 → byteAt w 0 ≠ 0x02#8 → s.isOpen = false →
      exec i s = .next (failed .notConnected s) ∧ (failed .notConnected s).errStep = 0#4)

/-- READ of a selector below 15 on an open connection sends the read request of its entry, whatever the length hint, and
the receive phase starts; LEN is ignored (44_host_ops.md R216, R213). -/
def Obligations.ReadSendsTheRequest : Prop :=
  ∀ (s : State) (reg len : Byte) (e : OdEntry), s.seq = 0#2 → (entries s.cfg.od)[reg.toNat]? = some e →
    (Issuing .can s → exec (.read reg len) s = .next (awaiting (sentCan (readRequest e) s))) ∧
    (Issuing .uart s → exec (.read reg len) s = .next (awaiting (sentUart (readRequest e) s)))

/-- WRITE of 1, 2 or 4 bytes to a selector below 15 on an open connection sends the low bytes of ARG0; on CAN the receive
phase starts, on UART the command is complete (44_host_ops.md R217, 43_framed_codec.md R184). -/
def Obligations.WriteSendsTheOperand : Prop :=
  ∀ (s : State) (reg : Byte) (n : WriteLen) (e : OdEntry), s.seq = 0#2 → (entries s.cfg.od)[reg.toNat]? = some e →
    (Issuing .can s → exec (.write reg (lenByte n)) s = .next (awaiting (sentCan (writeRequest e s.arg0 n) s))) ∧
    (Issuing .uart s → exec (.write reg (lenByte n)) s = .next (completed (sentUart (writeRequest e s.arg0 n) s)))

/-- The motor commands of one write: RESET_ERROR, QUICK_STOP, SET_TARGET_POSITION, SET_TRAPEZOID_SPEED send the value to
the entry with the entry's own length; on CAN the receive phase starts, on UART the command is complete
(45_motor_state_controller.md R232, R233, R236, R237). -/
def Obligations.SingleWriteMotorCommands : Prop :=
  ∀ (s : State) (reg len : Byte) (n : WriteLen), s.seq = 0#2 →
    (hintLen s.cfg.od.controlWord = some n →
      (Issuing .can s →
        exec (.resetError reg len) s = .next (awaiting (sentCan (writeRequest s.cfg.od.controlWord 0x86#32 n) s)) ∧
        exec (.quickStop reg len) s = .next (awaiting (sentCan (writeRequest s.cfg.od.controlWord 0x0B#32 n) s))) ∧
      (Issuing .uart s →
        exec (.resetError reg len) s = .next (completed (sentUart (writeRequest s.cfg.od.controlWord 0x86#32 n) s)) ∧
        exec (.quickStop reg len) s = .next (completed (sentUart (writeRequest s.cfg.od.controlWord 0x0B#32 n) s)))) ∧
    (hintLen s.cfg.od.targetPosition = some n →
      (Issuing .can s →
        exec (.setTargetPosition reg len) s =
          .next (awaiting (sentCan (writeRequest s.cfg.od.targetPosition s.arg0 n) s))) ∧
      (Issuing .uart s →
        exec (.setTargetPosition reg len) s =
          .next (completed (sentUart (writeRequest s.cfg.od.targetPosition s.arg0 n) s)))) ∧
    (hintLen s.cfg.od.targetSpeed = some n →
      (Issuing .can s →
        exec (.setTrapezoidSpeed reg len) s =
          .next (awaiting (sentCan (writeRequest s.cfg.od.targetSpeed s.arg0 n) s))) ∧
      (Issuing .uart s →
        exec (.setTrapezoidSpeed reg len) s =
          .next (completed (sentUart (writeRequest s.cfg.od.targetSpeed s.arg0 n) s))))

/-- START_MOVE writes 0x2F to the control word, 0x01 to the operation mode, 0x3F to the control word, one at each value
of SEQ; on UART the last one completes the command (45_motor_state_controller.md R234). -/
def Obligations.StartMoveSteps : Prop :=
  ∀ (s : State) (reg len : Byte) (n : WriteLen),
    (hintLen s.cfg.od.controlWord = some n → s.seq = 0#2 →
      (Issuing .can s →
        exec (.startMove reg len) s = .next (awaiting (sentCan (writeRequest s.cfg.od.controlWord 0x2F#32 n) s))) ∧
      (Issuing .uart s →
        exec (.startMove reg len) s =
          .next { sentUart (writeRequest s.cfg.od.controlWord 0x2F#32 n) s with seq := 1#2, phase := .issue })) ∧
    (hintLen s.cfg.od.operationMode = some n → s.seq = 1#2 →
      (Issuing .can s →
        exec (.startMove reg len) s = .next (awaiting (sentCan (writeRequest s.cfg.od.operationMode 0x01#32 n) s))) ∧
      (Issuing .uart s →
        exec (.startMove reg len) s =
          .next { sentUart (writeRequest s.cfg.od.operationMode 0x01#32 n) s with seq := 2#2, phase := .issue })) ∧
    (hintLen s.cfg.od.controlWord = some n → s.seq = 2#2 →
      (Issuing .can s →
        exec (.startMove reg len) s = .next (awaiting (sentCan (writeRequest s.cfg.od.controlWord 0x3F#32 n) s))) ∧
      (Issuing .uart s →
        exec (.startMove reg len) s =
          .next (completed (sentUart (writeRequest s.cfg.od.controlWord 0x3F#32 n) s))))

/-- SET_POS_SPEED writes 0x2F to the control word, ARG0 to the target position, ARG1 to the target speed, 0x3F to the
control word, one at each value of SEQ; on UART the last one completes the command (45_motor_state_controller.md R239). -/
def Obligations.SetPosSpeedSteps : Prop :=
  ∀ (s : State) (reg len : Byte) (n : WriteLen),
    (hintLen s.cfg.od.controlWord = some n → s.seq = 0#2 →
      (Issuing .can s →
        exec (.setPosSpeed reg len) s = .next (awaiting (sentCan (writeRequest s.cfg.od.controlWord 0x2F#32 n) s))) ∧
      (Issuing .uart s →
        exec (.setPosSpeed reg len) s =
          .next { sentUart (writeRequest s.cfg.od.controlWord 0x2F#32 n) s with seq := 1#2, phase := .issue })) ∧
    (hintLen s.cfg.od.targetPosition = some n → s.seq = 1#2 →
      (Issuing .can s →
        exec (.setPosSpeed reg len) s = .next (awaiting (sentCan (writeRequest s.cfg.od.targetPosition s.arg0 n) s))) ∧
      (Issuing .uart s →
        exec (.setPosSpeed reg len) s =
          .next { sentUart (writeRequest s.cfg.od.targetPosition s.arg0 n) s with seq := 2#2, phase := .issue })) ∧
    (hintLen s.cfg.od.targetSpeed = some n → s.seq = 2#2 →
      (Issuing .can s →
        exec (.setPosSpeed reg len) s = .next (awaiting (sentCan (writeRequest s.cfg.od.targetSpeed s.arg1 n) s))) ∧
      (Issuing .uart s →
        exec (.setPosSpeed reg len) s =
          .next { sentUart (writeRequest s.cfg.od.targetSpeed s.arg1 n) s with seq := 3#2, phase := .issue })) ∧
    (hintLen s.cfg.od.controlWord = some n → s.seq = 3#2 →
      (Issuing .can s →
        exec (.setPosSpeed reg len) s = .next (awaiting (sentCan (writeRequest s.cfg.od.controlWord 0x3F#32 n) s))) ∧
      (Issuing .uart s →
        exec (.setPosSpeed reg len) s =
          .next (completed (sentUart (writeRequest s.cfg.od.controlWord 0x3F#32 n) s))))

/-- A motor command whose current entry has a length hint other than 1, 2, 4 raises UsageError at that step, with ERRSTEP
the step, and that step sends nothing (40_object_dictionary.md R126, 45_motor_state_controller.md R241). -/
def Obligations.BadHintRaisesUsageError : Prop :=
  ∀ (t : Transport) (s : State) (i : Instr) (e : OdEntry) (v : Word), s.schedule = [] → Issuing t s →
    decodeCommand s.cmd = .ok i → (motorWrites s (byteAt s.cmd 0))[s.seq.toNat]? = some (e, v) → hintLen e = none →
    step s = .next (failed .usageError s)

/-- On UART a motor command of k steps sends its k frames in order, contiguously, and completes without waiting and
without an error, whatever is queued (45_motor_state_controller.md R245, 43_framed_codec.md R184). -/
def Obligations.UartMotorCommandsRunToCompletion : Prop :=
  ∀ (s : State) (op : Byte), byteAt s.cmd 0 = op → motorWrites s op ≠ [] → s.schedule = [] → Issuing .uart s →
    s.seq = 0#2 → s.cfg.od.wellFormed = true →
    HostSide.settle (motorWrites s op).length s =
      .next (completed (((motorWrites s op).map motorFrame).foldl (fun s f => sentUart f s) s))

/-- On CAN a motor command of k steps whose k acknowledgements are queued sends its k frames in order, takes exactly
those k responses and completes without an error (45_motor_state_controller.md R245, R240). -/
def Obligations.CanMotorCommandsRunToCompletion : Prop :=
  ∀ (s : State) (op : Byte) (acks : List SdoFrame) (rest : List CanData), byteAt s.cmd 0 = op → motorWrites s op ≠ [] →
    s.schedule = [] → Issuing .can s → s.seq = 0#2 → s.cfg.od.wellFormed = true → s.cfg.wack ≠ 0x80#8 →
    acks.length = (motorWrites s op).length → (∀ f ∈ acks, f.cmd = s.cfg.wack) →
    s.crxq = acks.map (fun f => ⟨8#4, f⟩) ++ rest →
    ∃ t, HostSide.settle (2 * (motorWrites s op).length) s = .next t ∧
      t.ctx = s.ctx ++ (motorWrites s op).map (fun w => ⟨0b1100#4 ++ s.nodeId, 8#4, motorFrame w⟩) ∧
      t.utx = s.utx ∧ t.crxq = rest ∧ t.busy = false ∧ t.done = true ∧ t.err = s.err ∧ t.errKind = s.errKind ∧
      t.result = s.result ∧ t.isOpen = true ∧ t.phase = .idle

/-! ### The frames -/

/-- The logical request frames, as the model runs them (its own choice, log 8): issued on an open connection they go to
the active transport byte for byte as R86 to R89 lay them out. The read request, whatever CMD holds and so during READ
(CMD.OP = 0x10), awaits its response. A write request, at any write step of WRITE or of a motor command, awaits a response
on CAN; on UART it ends the step, and the command after its last step. -/
def Obligations.RequestFramesAreSent : Prop :=
  ∀ (s : State) (index : Half) (sub : Byte) (b : Byte) (h : Half) (w : Word),
    let rd : SdoFrame := ⟨0x40#8, byteAt index 0, byteAt index 1, sub, 0#8, 0#8, 0#8, 0#8⟩
    let wr1 : SdoFrame := ⟨0x2F#8, byteAt index 0, byteAt index 1, sub, b, 0#8, 0#8, 0#8⟩
    let wr2 : SdoFrame := ⟨0x2B#8, byteAt index 0, byteAt index 1, sub, byteAt h 0, byteAt h 1, 0#8, 0#8⟩
    let wr4 : SdoFrame := ⟨0x23#8, byteAt index 0, byteAt index 1, sub, byteAt w 0, byteAt w 1, byteAt w 2, byteAt w 3⟩
    (Issuing .can s →
      exec (.sdoRdReq index sub) s = .next (awaiting (sentCan rd s)) ∧
      (WriteStep s →
        exec (.sdoWr1Req index sub b) s = .next (awaiting (sentCan wr1 s)) ∧
        exec (.sdoWr2Req index sub h) s = .next (awaiting (sentCan wr2 s)) ∧
        exec (.sdoWr4Req index sub w) s = .next (awaiting (sentCan wr4 s)))) ∧
    (Issuing .uart s →
      exec (.sdoRdReq index sub) s = .next (awaiting (sentUart rd s)) ∧
      (WriteStep s →
        exec (.sdoWr1Req index sub b) s = .next (afterUartWrite (sentUart wr1 s)) ∧
        exec (.sdoWr2Req index sub h) s = .next (afterUartWrite (sentUart wr2 s)) ∧
        exec (.sdoWr4Req index sub w) s = .next (afterUartWrite (sentUart wr4 s))))

/-- The UART request frames, as the model runs them (its own choice, log 8, 9, 22): on UART the ten bytes go out with
the generated checksum. The read request, whatever CMD holds and so during READ (CMD.OP = 0x10), awaits its response; a
write request, at any write step of WRITE or of a motor command, ends the step, and the command after its last step. On CAN
nothing happens. -/
def Obligations.UartRequestFramesAreSent : Prop :=
  ∀ (s : State) (index : Half) (sub : Byte) (b : Byte) (h : Half) (w : Word) (chk : Byte),
    let rd : SdoFrame := ⟨0x40#8, byteAt index 0, byteAt index 1, sub, 0#8, 0#8, 0#8, 0#8⟩
    let wr1 : SdoFrame := ⟨0x2F#8, byteAt index 0, byteAt index 1, sub, b, 0#8, 0#8, 0#8⟩
    let wr2 : SdoFrame := ⟨0x2B#8, byteAt index 0, byteAt index 1, sub, byteAt h 0, byteAt h 1, 0#8, 0#8⟩
    let wr4 : SdoFrame := ⟨0x23#8, byteAt index 0, byteAt index 1, sub, byteAt w 0, byteAt w 1, byteAt w 2, byteAt w 3⟩
    (Issuing .uart s →
      exec (.uartRdReq index sub chk) s = .next (awaiting (sentUart rd s)) ∧
      (WriteStep s →
        exec (.uartWr1Req index sub b chk) s = .next (afterUartWrite (sentUart wr1 s)) ∧
        exec (.uartWr2Req index sub h chk) s = .next (afterUartWrite (sentUart wr2 s)) ∧
        exec (.uartWr4Req index sub w chk) s = .next (afterUartWrite (sentUart wr4 s)))) ∧
    (Issuing .can s →
      exec (.uartRdReq index sub chk) s = .next s ∧ exec (.uartWr1Req index sub b chk) s = .next s ∧
      exec (.uartWr2Req index sub h chk) s = .next s ∧ exec (.uartWr4Req index sub w chk) s = .next s)

/-- The request identifier, as the model runs it (its own choice, log 8, 9, 23): on an open CAN connection in ISSUE the
identifier of the block's own node is that of the current step's request, so running it sends that request (of READ, of
WRITE, or of a step of a motor command) under `0b1100 nnnnnnn` and starts the receive phase; it is what the command in CMD
itself does there, an error of the step among it. Where the command has no request to send, and for the identifier of another
node, nothing happens. -/
def Obligations.RequestIdentifierIsSent : Prop :=
  ∀ (s : State) (node : BitVec 7), Issuing .can s →
    (node = s.nodeId →
      (∀ e, ReadStep s → (entries s.cfg.od)[(byteAt s.cmd 1).toNat]? = some e →
        exec (.canReqId node) s = .next (awaiting (sentCan (readRequest e) s))) ∧
      (∀ e n, byteAt s.cmd 0 = 0x11#8 → s.seq = 0#2 → (entries s.cfg.od)[(byteAt s.cmd 1).toNat]? = some e →
        byteAt s.cmd 2 = lenByte n →
        exec (.canReqId node) s = .next (awaiting (sentCan (writeRequest e s.arg0 n) s))) ∧
      (∀ e v n, (motorWrites s (byteAt s.cmd 0))[s.seq.toNat]? = some (e, v) → hintLen e = some n →
        exec (.canReqId node) s = .next (awaiting (sentCan (writeRequest e v n) s))) ∧
      (∀ i, ReadStep s ∨ WriteStep s → decodeCommand s.cmd = .ok i → exec (.canReqId node) s = exec i s) ∧
      (¬ ReadStep s → ¬ WriteStep s → exec (.canReqId node) s = .next s)) ∧
    (node ≠ s.nodeId → exec (.canReqId node) s = .next s)

/-- The read responses in the read step that awaits one: the frame is taken, RESULT is the zero-extended value and the
command completes; index, sub-index and the unused payload bytes are not examined (30_encoding.md R90 to R92,
42_sdo_codec.md R166, R168). -/
def Obligations.ReadResponsesComplete : Prop :=
  ∀ (s : State) (index : Half) (sub b : Byte) (h rest : Half) (rest3 : BitVec 24) (w : Word),
    Awaiting .can s → ReadStep s →
    exec (.sdoRd1Rsp index sub b rest3) s = .next (completed { tookCan
      ⟨0x4F#8, byteAt index 0, byteAt index 1, sub, b, byteAt rest3 0, byteAt rest3 1, byteAt rest3 2⟩ s with
      result := b.setWidth 32 }) ∧
    exec (.sdoRd2Rsp index sub h rest) s = .next (completed { tookCan
      ⟨0x4B#8, byteAt index 0, byteAt index 1, sub, byteAt h 0, byteAt h 1, byteAt rest 0, byteAt rest 1⟩ s with
      result := h.setWidth 32 }) ∧
    exec (.sdoRd4Rsp index sub w) s = .next (completed { tookCan
      ⟨0x43#8, byteAt index 0, byteAt index 1, sub, byteAt w 0, byteAt w 1, byteAt w 2, byteAt w 3⟩ s with
      result := w })

/-- An abort response ends a read step and a write step alike with DeviceAbort and its code; RESULT is 0
(30_encoding.md R93, 42_sdo_codec.md R167, R170). -/
def Obligations.AbortEndsTheCommand : Prop :=
  ∀ (s : State) (index : Half) (sub : Byte) (code : Word), Awaiting .can s → ReadStep s ∨ WriteStep s →
    exec (.sdoAbort index sub code) s = .next (aborted code (tookCan
      ⟨0x80#8, byteAt index 0, byteAt index 1, sub, byteAt code 0, byteAt code 1, byteAt code 2, byteAt code 3⟩ s))

/-- An acknowledgement in a write step: the step is done; the command completes after its last step and goes on to the
next one otherwise. In a read step the same frame is MalformedResponse unless it is of a read class or an abort
(30_encoding.md R94, R97, 42_sdo_codec.md R170). -/
def Obligations.AcknowledgementEndsTheStep : Prop :=
  ∀ (s : State) (ack : Byte) (index : Half) (sub : Byte) (rest : Word), Awaiting .can s → ack = s.cfg.wack →
    ack ≠ 0x80#8 →
    (WriteStep s → exec (.sdoWrAck ack index sub rest) s = .next (afterAck (tookCan
      ⟨ack, byteAt index 0, byteAt index 1, sub, byteAt rest 0, byteAt rest 1, byteAt rest 2, byteAt rest 3⟩ s))) ∧
    (ReadStep s → ack ≠ 0x4F#8 → ack ≠ 0x4B#8 → ack ≠ 0x43#8 →
      exec (.sdoWrAck ack index sub rest) s = .next (failed .malformedResponse (tookCan
        ⟨ack, byteAt index 0, byteAt index 1, sub, byteAt rest 0, byteAt rest 1, byteAt rest 2, byteAt rest 3⟩ s)))

/-- The UART read response with the current markers: the value goes to RESULT if the checksum is right; else
ChecksumMismatch and RESULT is 0 (43_framed_codec.md R192). -/
def Obligations.UartResponseCompletes : Prop :=
  ∀ (s : State) (indexHi sub : Byte) (v : Word) (chk : Byte), Awaiting .uart s → ReadStep s →
    let f : SdoFrame := ⟨s.umark0, s.umark1, indexHi, sub, byteAt v 0, byteAt v 1, byteAt v 2, byteAt v 3⟩
    (chk = lrc (0x7F#8 :: f.bytes) → exec (.uartRdRsp s.umark0 s.umark1 indexHi sub v chk) s =
      .next (completed { s with urxq := s.urxq.tail, rxBuf := ⟨0x7F#8, f, chk⟩, result := v })) ∧
    (chk ≠ lrc (0x7F#8 :: f.bytes) → exec (.uartRdRsp s.umark0 s.umark1 indexHi sub v chk) s =
      .next (failed .checksumMismatch { s with urxq := s.urxq.tail, rxBuf := ⟨0x7F#8, f, chk⟩ }))

/-- The response identifier of a frame at `can_rx`: accepted and queued, with the data bytes beyond the data length code
recorded as 0; lost with CRXOVR set when the queue is full; dropped when the filter does not accept it. What is done with
an accepted frame is 41_transport_mux.md R134 and R137. The MODEL's own choices (log 8, 10): the identifier is run as an
instruction, it consumes the frame at the head of the schedule, and its operand `node` stands in the place of that frame's
own identifier, which is not read (a step runs it only on the identifier that the frame carries). -/
def Obligations.ResponseIdentifierIsFiltered : Prop :=
  ∀ (s : State) (node : BitVec 7) (f : CanRxFrame) (rest : List Event), s.schedule = .canRx f :: rest →
    (s.isOpen = true → s.tselAct = .can → f.rtr = false → node = s.nodeId →
      (Room s.cfg.crxqDepth s.crxq.length → ∃ d : SdoFrame, RecordedData f d ∧
        exec (.canRspId node) s = .next { s with schedule := rest, crxq := s.crxq ++ [⟨f.dlc, d⟩] }) ∧
      (¬ Room s.cfg.crxqDepth s.crxq.length →
        exec (.canRspId node) s = .next { s with schedule := rest, crxOvr := true })) ∧
    (s.isOpen = false ∨ s.tselAct = .uart ∨ f.rtr = true ∨ node ≠ s.nodeId →
      exec (.canRspId node) s = .next { s with schedule := rest })

/-! ### Events of the environment and of the host -/

/-- A frame arriving on `can_rx`, whatever its identifier: the filter of R134 decides, the data length code being no part
of it. An accepted frame is queued, or lost with CRXOVR set if the queue is full; any other is dropped with no effect
(R134, R137). -/
def Obligations.CanFramesAreFiltered : Prop :=
  ∀ (s : State) (f : CanRxFrame) (rest : List Event), s.schedule = .canRx f :: rest →
    ((s.isOpen = true ∧ s.tselAct = .can ∧ f.rtr = false ∧ f.ident = .std (0x580#11 + s.nodeId.setWidth 11)) →
      (Room s.cfg.crxqDepth s.crxq.length → ∃ d : SdoFrame, RecordedData f d ∧
        step s = .next { s with schedule := rest, crxq := s.crxq ++ [⟨f.dlc, d⟩] }) ∧
      (¬ Room s.cfg.crxqDepth s.crxq.length → step s = .next { s with schedule := rest, crxOvr := true })) ∧
    (¬ (s.isOpen = true ∧ s.tselAct = .can ∧ f.rtr = false ∧ f.ident = .std (0x580#11 + s.nodeId.setWidth 11)) →
      step s = .next { s with schedule := rest })

/-- A byte arriving on `uart_rx`: queued if it is accepted and there is room, lost with URXOVR set if the queue is full,
dropped otherwise (R136). -/
def Obligations.UartBytesAreQueued : Prop :=
  ∀ (s : State) (b : Byte) (rest : List Event), s.schedule = .uartRx b :: rest →
    ((s.isOpen = true ∧ s.tselAct = .uart) →
      (Room s.cfg.urxqDepth s.urxq.length → step s = .next { s with schedule := rest, urxq := s.urxq ++ [b] }) ∧
      (¬ Room s.cfg.urxqDepth s.urxq.length → step s = .next { s with schedule := rest, urxOvr := true })) ∧
    (¬ (s.isOpen = true ∧ s.tselAct = .uart) → step s = .next { s with schedule := rest })

/-- The timer expires only while it is armed and not expired, and then only TEXP changes (41_transport_mux.md R147). -/
def Obligations.TimerExpiryOnlySetsTexp : Prop :=
  ∀ (s : State) (rest : List Event), s.schedule = .timerExpire :: rest →
    ((s.armed = true ∧ s.texp = false) → step s = .next { s with schedule := rest, texp := true }) ∧
    (¬ (s.armed = true ∧ s.texp = false) → step s = .next { s with schedule := rest })

/-- Reset: every piece of state has its value of R50, in the initial state and after the event `Reset`, whatever the
block was doing; the OD ROM and the other parameters stay. In the initial state the traces are empty. -/
def Obligations.ResetRestoresEveryField : Prop :=
  (∀ (s : State) (rest : List Event), s.schedule = .reset :: rest →
    ∃ t, step s = .next t ∧ ResetValues s.cfg t) ∧
  (∀ p : Params, ResetValues p (State.resetOf p) ∧ (State.resetOf p).utx = [] ∧ (State.resetOf p).ctx = []) ∧
  (ResetValues Config.board State.reset ∧ State.reset.utx = [] ∧ State.reset.ctx = [])

/-- Command acceptance: a write to CMD while BUSY = 0 starts the command; while BUSY = 1 only CMDOVR is set (R211). -/
def Obligations.CommandAcceptance : Prop :=
  ∀ (s : State) (w : Word) (rest : List Event), s.schedule = .hostWrite 0x14 w :: rest →
    (s.busy = false → step s = .next
      { s with
        schedule := rest, cmd := w &&& 0x00FFFFFF#32, busy := true, done := false, err := false, errKind := none,
        errStep := 0#4, result := 0#32, abortCode := 0#32, seq := 0#2, phase := .issue }) ∧
    (s.busy = true → step s = .next { s with schedule := rest, cmdOvr := true })

/-- The write protection of the host registers, and what a permitted write leaves (10_state.md R48, R20 to R28, R33). -/
def Obligations.HostWriteProtection : Prop :=
  ∀ (s : State) (addr : Nat) (w : Word) (rest : List Event), s.schedule = .hostWrite addr w :: rest →
    (addr = 0x00 ∨ addr = 0x04 ∨ addr = 0x0C → s.isOpen = true ∨ s.busy = true →
      step s = .next { s with schedule := rest }) ∧
    (addr = 0x08 ∨ addr = 0x10 ∨ addr = 0x18 ∨ addr = 0x1C → s.busy = true → step s = .next { s with schedule := rest }) ∧
    (addr ≠ 0x00 → addr ≠ 0x04 → addr ≠ 0x08 → addr ≠ 0x0C → addr ≠ 0x10 → addr ≠ 0x14 → addr ≠ 0x18 → addr ≠ 0x1C →
      addr ≠ 0x20 → step s = .next { s with schedule := rest }) ∧
    (addr = 0x14 →
      (s.busy = false → ∃ t, step s = .next t ∧ t.busy = true ∧ t.phase = .issue ∧ t.cmd = w &&& 0x00FFFFFF#32) ∧
      (s.busy = true → step s = .next { s with schedule := rest, cmdOvr := true })) ∧
    (addr = 0x20 → ∃ a b c : Bool, step s = .next { s with schedule := rest, cmdOvr := a, urxOvr := b, crxOvr := c } ∧
      (a = true ↔ s.cmdOvr = true ∧ w.getLsbD 5 = false) ∧ (b = true ↔ s.urxOvr = true ∧ w.getLsbD 6 = false) ∧
      (c = true ↔ s.crxOvr = true ∧ w.getLsbD 7 = false)) ∧
    (s.isOpen = false → s.busy = false →
      (addr = 0x00 → ∃ t, step s = .next { s with schedule := rest, tsel := t } ∧ t.bit = w.getLsbD 0) ∧
      (addr = 0x04 → step s = .next { s with schedule := rest, nodeId := w.setWidth 7 }) ∧
      (addr = 0x0C → step s = .next { s with schedule := rest, baudDiv := w.setWidth 16 })) ∧
    (s.busy = false →
      (addr = 0x08 → step s = .next { s with schedule := rest, timeout := w }) ∧
      (addr = 0x10 → step s = .next { s with schedule := rest, umark0 := byteAt w 0, umark1 := byteAt w 1 }) ∧
      (addr = 0x18 → step s = .next { s with schedule := rest, arg0 := w }) ∧
      (addr = 0x1C → step s = .next { s with schedule := rest, arg1 := w }))

/-- What the host reads: a register that a write may reach reads back what was written, with its reserved bits 0; in every
state, idle or busy, 0x24 reads RESULT and 0x28 reads ABORTCODE, and an address that is not in the table of R20, unaligned
ones among them, reads 0 (10_state.md R20, R34, R35). -/
def Obligations.WrittenRegistersReadBack : Prop :=
  (∀ (s : State) (addr : Nat) (w : Word), s.isOpen = false → s.busy = false →
    addr = 0x00 ∨ addr = 0x04 ∨ addr = 0x08 ∨ addr = 0x0C ∨ addr = 0x10 ∨ addr = 0x14 ∨ addr = 0x18 ∨ addr = 0x1C →
    hostRead addr (hostWrite addr w s) = w &&& registerMask addr) ∧
  (∀ s : State, hostRead 0x24 s = s.result ∧ hostRead 0x28 s = s.abortCode) ∧
  (∀ (s : State) (addr : Nat), 0x2C < addr ∨ addr % 4 ≠ 0 → hostRead addr s = 0#32)

/-- A host read changes nothing in the block (what the host has read, the model's own observation, is recorded: log 7);
while BUSY = 1, RESULT, ABORTCODE, DONE, ERR, ERRKIND and ERRSTEP read 0 (R49). -/
def Obligations.HostReadsHaveNoSideEffect : Prop :=
  (∀ (s : State) (addr : Nat) (rest : List Event), s.schedule = .hostRead addr :: rest →
    step s = .next { s with schedule := rest, hostReads := s.hostReads ++ [(addr, hostRead addr s)] }) ∧
  (∀ s : State, Inv s → s.busy = true →
    hostRead 0x24 s = 0#32 ∧ hostRead 0x28 s = 0#32 ∧ hostRead 0x20 s &&& 0x0000FF06#32 = 0#32)

/-- The fields of the STATUS word, with the error-kind codes of R270 (10_state.md R29). -/
def Obligations.StatusLayout : Prop :=
  ∀ s : State,
    (hostRead 0x20 s).getLsbD 0 = s.busy ∧ (hostRead 0x20 s).getLsbD 1 = s.done ∧ (hostRead 0x20 s).getLsbD 2 = s.err ∧
    (hostRead 0x20 s).getLsbD 3 = s.isOpen ∧ ((hostRead 0x20 s).getLsbD 4 = true ↔ s.tselAct = .uart) ∧
    (hostRead 0x20 s).getLsbD 5 = s.cmdOvr ∧ (hostRead 0x20 s).getLsbD 6 = s.urxOvr ∧
    (hostRead 0x20 s).getLsbD 7 = s.crxOvr ∧
    (hostRead 0x20 s).extractLsb' 8 4 = (match s.errKind with
      | none => 0#4
      | some .timeout => 1#4
      | some .malformedResponse => 2#4
      | some .checksumMismatch => 3#4
      | some .deviceAbort => 4#4
      | some .usageError => 5#4
      | some .notConnected => 6#4) ∧
    (hostRead 0x20 s).extractLsb' 12 4 = s.errStep ∧ (hostRead 0x20 s).extractLsb' 16 16 = 0#16

/-- ODPEEK shows the entry that CMD.REG selects, in selector order; it reads 0 for a reserved selector (10_state.md R46). -/
def Obligations.OdPeekShowsTheSelectedEntry : Prop :=
  ∀ s : State,
    (15 ≤ (byteAt s.cmd 1).toNat → hostRead 0x2C s = 0#32) ∧
    (∀ e, (entries s.cfg.od)[(byteAt s.cmd 1).toNat]? = some e →
      (hostRead 0x2C s).extractLsb' 0 16 = e.index ∧ (hostRead 0x2C s).extractLsb' 16 8 = e.sub ∧
      (hostRead 0x2C s).extractLsb' 24 3 = e.len ∧ (hostRead 0x2C s).extractLsb' 27 5 = 0#5)

/-! ### Host software -/

/-- The CAN position round trip: the increments are within one half of the exact product, and rounding the inverse gives
the increments back; `set_height(0.465)` is one position write of 4571136 (46_host_units_facade.md R265, R258). -/
def Obligations.CanPositionRoundTrip : Prop :=
  (∀ mm : Rat, |HostSide.canMillimetres (HostSide.canIncrements mm) - mm| ≤ 1 / 2 / (98304 / 10)) ∧
  (∀ inc : Int, HostSide.canIncrements (HostSide.canMillimetres inc) = inc) ∧
  HostSide.setHeight .can (465 / 1000) = .ok [.setTargetPosition 4571136#32]

end
end

