-- ==== Sys2Proof/Laws/Bytes.lean ====
section
/-! SUPPORT. The byte-order helpers: splitting a value into bytes and assembling it again gives the value back, and the
LRC makes a byte sum zero. -/

namespace Sys2Proof

theorem byteAt_toNat {n : Nat} (v : BitVec n) (i : Nat) : (byteAt v i).toNat = v.toNat / 256 ^ i % 256 := by
  unfold byteAt
  rw [BitVec.extractLsb'_toNat, Nat.shiftRight_eq_div_pow, Nat.pow_mul]

@[simp] theorem fromLe_nil : fromLe [] = 0 := rfl

@[simp] theorem fromLe_cons (b : Byte) (bs : List Byte) : fromLe (b :: bs) = b.toNat + 256 * fromLe bs := rfl

/-- Assembling the two bytes of a 16-bit value. -/
@[simp] theorem half_of_bytes (v : Half) : BitVec.ofNat 16 (fromLe [byteAt v 0, byteAt v 1]) = v := by
  apply BitVec.eq_of_toNat_eq
  have := v.isLt
  simp only [fromLe_cons, fromLe_nil, BitVec.toNat_ofNat, byteAt_toNat]
  omega

/-- Assembling the three bytes of a 24-bit value. -/
@[simp] theorem upper_of_bytes (v : BitVec 24) :
    BitVec.ofNat 24 (fromLe [byteAt v 0, byteAt v 1, byteAt v 2]) = v := by
  apply BitVec.eq_of_toNat_eq
  have := v.isLt
  simp only [fromLe_cons, fromLe_nil, BitVec.toNat_ofNat, byteAt_toNat]
  omega

/-- Assembling the four bytes of a 32-bit value. -/
@[simp] theorem word_of_bytes (v : Word) :
    BitVec.ofNat 32 (fromLe [byteAt v 0, byteAt v 1, byteAt v 2, byteAt v 3]) = v := by
  apply BitVec.eq_of_toNat_eq
  have := v.isLt
  simp only [fromLe_cons, fromLe_nil, BitVec.toNat_ofNat, byteAt_toNat]
  omega

/-- Splitting an assembled 32-bit value gives its bytes back. -/
theorem byteAt_of_bytes (a b c d : Byte) :
    byteAt (BitVec.ofNat 32 (fromLe [a, b, c, d])) 0 = a ∧ byteAt (BitVec.ofNat 32 (fromLe [a, b, c, d])) 1 = b ∧
      byteAt (BitVec.ofNat 32 (fromLe [a, b, c, d])) 2 = c ∧ byteAt (BitVec.ofNat 32 (fromLe [a, b, c, d])) 3 = d := by
  have ha := a.isLt
  have hb := b.isLt
  have hc := c.isLt
  have hd := d.isLt
  refine ⟨?_, ?_, ?_, ?_⟩ <;> apply BitVec.eq_of_toNat_eq <;>
    simp only [byteAt_toNat, BitVec.toNat_ofNat, fromLe_cons, fromLe_nil] <;> omega

@[simp] theorem addressed_index (cmd : Byte) (index : Half) (sub p0 p1 p2 p3 : Byte) :
    (addressed cmd index sub p0 p1 p2 p3).index = index := half_of_bytes index

@[simp] theorem wordFrame_payload (cmd : Byte) (index : Half) (sub : Byte) (v : Word) :
    (wordFrame cmd index sub v).payload = v := word_of_bytes v

/-- A concatenation as a number. -/
theorem append_toNat {m n : Nat} (x : BitVec m) (y : BitVec n) : (x ++ y).toNat = x.toNat * 2 ^ n + y.toNat := by
  rw [BitVec.toNat_append, ← Nat.shiftLeft_add_eq_or_of_lt y.isLt, Nat.shiftLeft_eq]

/-- A command word as a number. -/
theorem commandWord_toNat (op reg len : Byte) :
    (commandWord op reg len).toNat = op.toNat + 256 * reg.toNat + 65536 * len.toNat := by
  simp only [commandWord, append_toNat, BitVec.toNat_ofNat]
  omega

@[simp] theorem commandWord_op (op reg len : Byte) : byteAt (commandWord op reg len) 0 = op := by
  apply BitVec.eq_of_toNat_eq
  have := op.isLt
  rw [byteAt_toNat, commandWord_toNat]
  omega

@[simp] theorem commandWord_reg (op reg len : Byte) : byteAt (commandWord op reg len) 1 = reg := by
  apply BitVec.eq_of_toNat_eq
  have := op.isLt
  have := reg.isLt
  rw [byteAt_toNat, commandWord_toNat]
  omega

@[simp] theorem commandWord_len (op reg len : Byte) : byteAt (commandWord op reg len) 2 = len := by
  apply BitVec.eq_of_toNat_eq
  have := op.isLt
  have := reg.isLt
  have := len.isLt
  rw [byteAt_toNat, commandWord_toNat]
  omega

/-- The sum of a concatenation. -/
theorem byteSum_append (a b : List Byte) : byteSum (a ++ b) = byteSum a + byteSum b := by
  induction a with
  | nil => simp [byteSum]
  | cons x xs ih => simp [byteSum, ih, BitVec.add_assoc]

/-- The LRC is the two's complement of the sum (R180). -/
theorem lrc_eq_neg (bs : List Byte) : lrc bs = -byteSum bs := by
  apply BitVec.eq_of_toNat_eq
  rw [lrc, BitVec.toNat_ofNat, BitVec.toNat_neg]

end Sys2Proof
end

