-- ==== Sys2Proof/Laws/HostProgram.lean ====
section
/-! SUPPORT. What the host-side runner of test programs can do (44_host_ops.md R210, 46_host_units_facade.md R250, R252). -/

namespace Sys2Proof.Laws

open Sys2Proof.Machine Sys2Proof.HostSide

@[simp] theorem andThen_next (s : State) (f : State → Result) : andThen (.next s) f = f s := rfl

@[simp] theorem andThen_fault (r : Fault) (f : State → Result) : andThen (.fault r) f = .fault r := rfl

@[simp] theorem andThen_refused (r : Refusal) (f : State → Result) : andThen (.refused r) f = .refused r := rfl

/-- By a factor that is not 0 the host divides. -/
theorem perFactor_of_ne_zero (x : Rat) {k : Rat} (h : k ≠ 0) : perFactor x k = x / k := if_neg h

/-- While DONE of a command is awaited no host line is written: nothing but the environment acts. -/
theorem runFrom_forDone (l : Line) (ls : List Line) (s : State) (h : l.kind ≠ .free) :
    runFrom .forDone (l :: ls) s = .waiting s := by
  simp [runFrom, held, h]

/-- No host line is written while BUSY = 1. -/
theorem runFrom_busy (w : HostWait) (l : Line) (ls : List Line) (s : State) (h : l.kind ≠ .free)
    (hb : statusBit 0 s = true) : runFrom w (l :: ls) s = .waiting s := by
  simp [runFrom, held, h, hb]

/-- The host has an outcome only when DONE = 1, and a value only when ERR = 0 too: then it is RESULT. -/
theorem hostOutcome_ok {s : State} {v : Word} (h : hostOutcome s = some (.ok v)) :
    s.done = true ∧ s.err = false ∧ v = s.result := by
  unfold hostOutcome at h
  split at h
  · simp_all
  · simp at h
  · cases h
  · cases h

/-- An error the host passes on is the block's own: kind, abort code and step. -/
theorem hostOutcome_error {s : State} {e : HostError} (h : hostOutcome s = some (.error e)) :
    s.done = true ∧ s.err = true ∧ ∃ k, s.errKind = some k ∧ e = .block k s.abortCode s.errStep := by
  unfold hostOutcome at h
  split at h
  · simp at h
  · simp_all
  · cases h
  · cases h

/-- Bit 4 of what the host reads from STATUS is TSEL_ACT (R29). -/
theorem statusBit_tselAct (s : State) : statusBit 4 s = s.tselAct.bit := by
  show (statusWord s).getLsbD 4 = _
  unfold statusWord
  rw [BitVec.getLsbD_append, BitVec.getLsbD_append, BitVec.getLsbD_append, BitVec.getLsbD_append, BitVec.getLsbD_append]
  cases s.tselAct <;> simp [Transport.bit, boolBits]

/-- The transport whose calibration set the host uses is the block's TSEL_ACT (R251). -/
@[simp] theorem openedTransport_eq (s : State) : openedTransport s = s.tselAct := by
  unfold openedTransport
  rw [statusBit_tselAct]
  cases s.tselAct <;> rfl

end Sys2Proof.Laws
end

