-- ==== Sys2Proof/Laws/State.lean ====
section
/-! SUPPORT. One lemma per field per update: what each named operation does to each field of State (plain updates by rfl,
operations with cases for the fields they leave alone). -/

namespace Sys2Proof.Machine

/-! ### completeErr -/

@[simp] theorem completeErr_cfg (k : ErrKind) (s : State) : (completeErr k s).cfg = s.cfg := rfl
@[simp] theorem completeErr_tsel (k : ErrKind) (s : State) : (completeErr k s).tsel = s.tsel := rfl
@[simp] theorem completeErr_nodeId (k : ErrKind) (s : State) : (completeErr k s).nodeId = s.nodeId := rfl
@[simp] theorem completeErr_timeout (k : ErrKind) (s : State) : (completeErr k s).timeout = s.timeout := rfl
@[simp] theorem completeErr_baudDiv (k : ErrKind) (s : State) : (completeErr k s).baudDiv = s.baudDiv := rfl
@[simp] theorem completeErr_umark0 (k : ErrKind) (s : State) : (completeErr k s).umark0 = s.umark0 := rfl
@[simp] theorem completeErr_umark1 (k : ErrKind) (s : State) : (completeErr k s).umark1 = s.umark1 := rfl
@[simp] theorem completeErr_cmd (k : ErrKind) (s : State) : (completeErr k s).cmd = s.cmd := rfl
@[simp] theorem completeErr_arg0 (k : ErrKind) (s : State) : (completeErr k s).arg0 = s.arg0 := rfl
@[simp] theorem completeErr_arg1 (k : ErrKind) (s : State) : (completeErr k s).arg1 = s.arg1 := rfl
@[simp] theorem completeErr_busy (k : ErrKind) (s : State) : (completeErr k s).busy = false := rfl
@[simp] theorem completeErr_done (k : ErrKind) (s : State) : (completeErr k s).done = true := rfl
@[simp] theorem completeErr_err (k : ErrKind) (s : State) : (completeErr k s).err = true := rfl
@[simp] theorem completeErr_isOpen (k : ErrKind) (s : State) : (completeErr k s).isOpen = s.isOpen := rfl
@[simp] theorem completeErr_tselAct (k : ErrKind) (s : State) : (completeErr k s).tselAct = s.tselAct := rfl
@[simp] theorem completeErr_cmdOvr (k : ErrKind) (s : State) : (completeErr k s).cmdOvr = s.cmdOvr := rfl
@[simp] theorem completeErr_urxOvr (k : ErrKind) (s : State) : (completeErr k s).urxOvr = s.urxOvr := rfl
@[simp] theorem completeErr_crxOvr (k : ErrKind) (s : State) : (completeErr k s).crxOvr = s.crxOvr := rfl
@[simp] theorem completeErr_errKind (k : ErrKind) (s : State) : (completeErr k s).errKind = some k := rfl
@[simp] theorem completeErr_errStep (k : ErrKind) (s : State) : (completeErr k s).errStep = s.seq.setWidth 4 := rfl
@[simp] theorem completeErr_result (k : ErrKind) (s : State) : (completeErr k s).result = 0#32 := rfl
@[simp] theorem completeErr_abortCode (k : ErrKind) (s : State) : (completeErr k s).abortCode = if k = .deviceAbort then s.abortCode else 0#32 := rfl
@[simp] theorem completeErr_seq (k : ErrKind) (s : State) : (completeErr k s).seq = 0#2 := rfl
@[simp] theorem completeErr_phase (k : ErrKind) (s : State) : (completeErr k s).phase = .idle := rfl
@[simp] theorem completeErr_txBuf (k : ErrKind) (s : State) : (completeErr k s).txBuf = s.txBuf := rfl
@[simp] theorem completeErr_rxBuf (k : ErrKind) (s : State) : (completeErr k s).rxBuf = s.rxBuf := rfl
@[simp] theorem completeErr_rxCnt (k : ErrKind) (s : State) : (completeErr k s).rxCnt = 0 := rfl
@[simp] theorem completeErr_syncW (k : ErrKind) (s : State) : (completeErr k s).syncW = [] := rfl
@[simp] theorem completeErr_urxq (k : ErrKind) (s : State) : (completeErr k s).urxq = s.urxq := rfl
@[simp] theorem completeErr_crxq (k : ErrKind) (s : State) : (completeErr k s).crxq = s.crxq := rfl
@[simp] theorem completeErr_armed (k : ErrKind) (s : State) : (completeErr k s).armed = false := rfl
@[simp] theorem completeErr_texp (k : ErrKind) (s : State) : (completeErr k s).texp = false := rfl
@[simp] theorem completeErr_utx (k : ErrKind) (s : State) : (completeErr k s).utx = s.utx := rfl
@[simp] theorem completeErr_ctx (k : ErrKind) (s : State) : (completeErr k s).ctx = s.ctx := rfl
@[simp] theorem completeErr_schedule (k : ErrKind) (s : State) : (completeErr k s).schedule = s.schedule := rfl
@[simp] theorem completeErr_hostReads (k : ErrKind) (s : State) : (completeErr k s).hostReads = s.hostReads := rfl

/-! ### completeOk -/

@[simp] theorem completeOk_cfg (s : State) : (completeOk s).cfg = s.cfg := rfl
@[simp] theorem completeOk_tsel (s : State) : (completeOk s).tsel = s.tsel := rfl
@[simp] theorem completeOk_nodeId (s : State) : (completeOk s).nodeId = s.nodeId := rfl
@[simp] theorem completeOk_timeout (s : State) : (completeOk s).timeout = s.timeout := rfl
@[simp] theorem completeOk_baudDiv (s : State) : (completeOk s).baudDiv = s.baudDiv := rfl
@[simp] theorem completeOk_umark0 (s : State) : (completeOk s).umark0 = s.umark0 := rfl
@[simp] theorem completeOk_umark1 (s : State) : (completeOk s).umark1 = s.umark1 := rfl
@[simp] theorem completeOk_cmd (s : State) : (completeOk s).cmd = s.cmd := rfl
@[simp] theorem completeOk_arg0 (s : State) : (completeOk s).arg0 = s.arg0 := rfl
@[simp] theorem completeOk_arg1 (s : State) : (completeOk s).arg1 = s.arg1 := rfl
@[simp] theorem completeOk_busy (s : State) : (completeOk s).busy = false := rfl
@[simp] theorem completeOk_done (s : State) : (completeOk s).done = true := rfl
@[simp] theorem completeOk_err (s : State) : (completeOk s).err = s.err := rfl
@[simp] theorem completeOk_isOpen (s : State) : (completeOk s).isOpen = s.isOpen := rfl
@[simp] theorem completeOk_tselAct (s : State) : (completeOk s).tselAct = s.tselAct := rfl
@[simp] theorem completeOk_cmdOvr (s : State) : (completeOk s).cmdOvr = s.cmdOvr := rfl
@[simp] theorem completeOk_urxOvr (s : State) : (completeOk s).urxOvr = s.urxOvr := rfl
@[simp] theorem completeOk_crxOvr (s : State) : (completeOk s).crxOvr = s.crxOvr := rfl
@[simp] theorem completeOk_errKind (s : State) : (completeOk s).errKind = s.errKind := rfl
@[simp] theorem completeOk_errStep (s : State) : (completeOk s).errStep = s.errStep := rfl
@[simp] theorem completeOk_result (s : State) : (completeOk s).result = s.result := rfl
@[simp] theorem completeOk_abortCode (s : State) : (completeOk s).abortCode = s.abortCode := rfl
@[simp] theorem completeOk_seq (s : State) : (completeOk s).seq = 0#2 := rfl
@[simp] theorem completeOk_phase (s : State) : (completeOk s).phase = .idle := rfl
@[simp] theorem completeOk_txBuf (s : State) : (completeOk s).txBuf = s.txBuf := rfl
@[simp] theorem completeOk_rxBuf (s : State) : (completeOk s).rxBuf = s.rxBuf := rfl
@[simp] theorem completeOk_rxCnt (s : State) : (completeOk s).rxCnt = 0 := rfl
@[simp] theorem completeOk_syncW (s : State) : (completeOk s).syncW = [] := rfl
@[simp] theorem completeOk_urxq (s : State) : (completeOk s).urxq = s.urxq := rfl
@[simp] theorem completeOk_crxq (s : State) : (completeOk s).crxq = s.crxq := rfl
@[simp] theorem completeOk_armed (s : State) : (completeOk s).armed = false := rfl
@[simp] theorem completeOk_texp (s : State) : (completeOk s).texp = false := rfl
@[simp] theorem completeOk_utx (s : State) : (completeOk s).utx = s.utx := rfl
@[simp] theorem completeOk_ctx (s : State) : (completeOk s).ctx = s.ctx := rfl
@[simp] theorem completeOk_schedule (s : State) : (completeOk s).schedule = s.schedule := rfl
@[simp] theorem completeOk_hostReads (s : State) : (completeOk s).hostReads = s.hostReads := rfl

/-! ### canTransmit -/

@[simp] theorem canTransmit_cfg (n : BitVec 7) (s : State) : (canTransmit n s).cfg = s.cfg := rfl
@[simp] theorem canTransmit_tsel (n : BitVec 7) (s : State) : (canTransmit n s).tsel = s.tsel := rfl
@[simp] theorem canTransmit_nodeId (n : BitVec 7) (s : State) : (canTransmit n s).nodeId = s.nodeId := rfl
@[simp] theorem canTransmit_timeout (n : BitVec 7) (s : State) : (canTransmit n s).timeout = s.timeout := rfl
@[simp] theorem canTransmit_baudDiv (n : BitVec 7) (s : State) : (canTransmit n s).baudDiv = s.baudDiv := rfl
@[simp] theorem canTransmit_umark0 (n : BitVec 7) (s : State) : (canTransmit n s).umark0 = s.umark0 := rfl
@[simp] theorem canTransmit_umark1 (n : BitVec 7) (s : State) : (canTransmit n s).umark1 = s.umark1 := rfl
@[simp] theorem canTransmit_cmd (n : BitVec 7) (s : State) : (canTransmit n s).cmd = s.cmd := rfl
@[simp] theorem canTransmit_arg0 (n : BitVec 7) (s : State) : (canTransmit n s).arg0 = s.arg0 := rfl
@[simp] theorem canTransmit_arg1 (n : BitVec 7) (s : State) : (canTransmit n s).arg1 = s.arg1 := rfl
@[simp] theorem canTransmit_busy (n : BitVec 7) (s : State) : (canTransmit n s).busy = s.busy := rfl
@[simp] theorem canTransmit_done (n : BitVec 7) (s : State) : (canTransmit n s).done = s.done := rfl
@[simp] theorem canTransmit_err (n : BitVec 7) (s : State) : (canTransmit n s).err = s.err := rfl
@[simp] theorem canTransmit_isOpen (n : BitVec 7) (s : State) : (canTransmit n s).isOpen = s.isOpen := rfl
@[simp] theorem canTransmit_tselAct (n : BitVec 7) (s : State) : (canTransmit n s).tselAct = s.tselAct := rfl
@[simp] theorem canTransmit_cmdOvr (n : BitVec 7) (s : State) : (canTransmit n s).cmdOvr = s.cmdOvr := rfl
@[simp] theorem canTransmit_urxOvr (n : BitVec 7) (s : State) : (canTransmit n s).urxOvr = s.urxOvr := rfl
@[simp] theorem canTransmit_crxOvr (n : BitVec 7) (s : State) : (canTransmit n s).crxOvr = s.crxOvr := rfl
@[simp] theorem canTransmit_errKind (n : BitVec 7) (s : State) : (canTransmit n s).errKind = s.errKind := rfl
@[simp] theorem canTransmit_errStep (n : BitVec 7) (s : State) : (canTransmit n s).errStep = s.errStep := rfl
@[simp] theorem canTransmit_result (n : BitVec 7) (s : State) : (canTransmit n s).result = s.result := rfl
@[simp] theorem canTransmit_abortCode (n : BitVec 7) (s : State) : (canTransmit n s).abortCode = s.abortCode := rfl
@[simp] theorem canTransmit_seq (n : BitVec 7) (s : State) : (canTransmit n s).seq = s.seq := rfl
@[simp] theorem canTransmit_phase (n : BitVec 7) (s : State) : (canTransmit n s).phase = s.phase := rfl
@[simp] theorem canTransmit_txBuf (n : BitVec 7) (s : State) : (canTransmit n s).txBuf = s.txBuf := rfl
@[simp] theorem canTransmit_rxBuf (n : BitVec 7) (s : State) : (canTransmit n s).rxBuf = s.rxBuf := rfl
@[simp] theorem canTransmit_rxCnt (n : BitVec 7) (s : State) : (canTransmit n s).rxCnt = s.rxCnt := rfl
@[simp] theorem canTransmit_syncW (n : BitVec 7) (s : State) : (canTransmit n s).syncW = s.syncW := rfl
@[simp] theorem canTransmit_urxq (n : BitVec 7) (s : State) : (canTransmit n s).urxq = s.urxq := rfl
@[simp] theorem canTransmit_crxq (n : BitVec 7) (s : State) : (canTransmit n s).crxq = s.crxq := rfl
@[simp] theorem canTransmit_armed (n : BitVec 7) (s : State) : (canTransmit n s).armed = s.armed := rfl
@[simp] theorem canTransmit_texp (n : BitVec 7) (s : State) : (canTransmit n s).texp = s.texp := rfl
@[simp] theorem canTransmit_utx (n : BitVec 7) (s : State) : (canTransmit n s).utx = s.utx := rfl
@[simp] theorem canTransmit_ctx (n : BitVec 7) (s : State) : (canTransmit n s).ctx = s.ctx ++ [⟨canReqIdOf n, 8#4, s.txBuf.body⟩] := rfl
@[simp] theorem canTransmit_schedule (n : BitVec 7) (s : State) : (canTransmit n s).schedule = s.schedule := rfl
@[simp] theorem canTransmit_hostReads (n : BitVec 7) (s : State) : (canTransmit n s).hostReads = s.hostReads := rfl

/-! ### uartTransmit -/

@[simp] theorem uartTransmit_cfg (s : State) : (uartTransmit s).cfg = s.cfg := rfl
@[simp] theorem uartTransmit_tsel (s : State) : (uartTransmit s).tsel = s.tsel := rfl
@[simp] theorem uartTransmit_nodeId (s : State) : (uartTransmit s).nodeId = s.nodeId := rfl
@[simp] theorem uartTransmit_timeout (s : State) : (uartTransmit s).timeout = s.timeout := rfl
@[simp] theorem uartTransmit_baudDiv (s : State) : (uartTransmit s).baudDiv = s.baudDiv := rfl
@[simp] theorem uartTransmit_umark0 (s : State) : (uartTransmit s).umark0 = s.umark0 := rfl
@[simp] theorem uartTransmit_umark1 (s : State) : (uartTransmit s).umark1 = s.umark1 := rfl
@[simp] theorem uartTransmit_cmd (s : State) : (uartTransmit s).cmd = s.cmd := rfl
@[simp] theorem uartTransmit_arg0 (s : State) : (uartTransmit s).arg0 = s.arg0 := rfl
@[simp] theorem uartTransmit_arg1 (s : State) : (uartTransmit s).arg1 = s.arg1 := rfl
@[simp] theorem uartTransmit_busy (s : State) : (uartTransmit s).busy = s.busy := rfl
@[simp] theorem uartTransmit_done (s : State) : (uartTransmit s).done = s.done := rfl
@[simp] theorem uartTransmit_err (s : State) : (uartTransmit s).err = s.err := rfl
@[simp] theorem uartTransmit_isOpen (s : State) : (uartTransmit s).isOpen = s.isOpen := rfl
@[simp] theorem uartTransmit_tselAct (s : State) : (uartTransmit s).tselAct = s.tselAct := rfl
@[simp] theorem uartTransmit_cmdOvr (s : State) : (uartTransmit s).cmdOvr = s.cmdOvr := rfl
@[simp] theorem uartTransmit_urxOvr (s : State) : (uartTransmit s).urxOvr = s.urxOvr := rfl
@[simp] theorem uartTransmit_crxOvr (s : State) : (uartTransmit s).crxOvr = s.crxOvr := rfl
@[simp] theorem uartTransmit_errKind (s : State) : (uartTransmit s).errKind = s.errKind := rfl
@[simp] theorem uartTransmit_errStep (s : State) : (uartTransmit s).errStep = s.errStep := rfl
@[simp] theorem uartTransmit_result (s : State) : (uartTransmit s).result = s.result := rfl
@[simp] theorem uartTransmit_abortCode (s : State) : (uartTransmit s).abortCode = s.abortCode := rfl
@[simp] theorem uartTransmit_seq (s : State) : (uartTransmit s).seq = s.seq := rfl
@[simp] theorem uartTransmit_phase (s : State) : (uartTransmit s).phase = s.phase := rfl
@[simp] theorem uartTransmit_txBuf (s : State) : (uartTransmit s).txBuf = s.txBuf := rfl
@[simp] theorem uartTransmit_rxBuf (s : State) : (uartTransmit s).rxBuf = s.rxBuf := rfl
@[simp] theorem uartTransmit_rxCnt (s : State) : (uartTransmit s).rxCnt = s.rxCnt := rfl
@[simp] theorem uartTransmit_syncW (s : State) : (uartTransmit s).syncW = s.syncW := rfl
@[simp] theorem uartTransmit_urxq (s : State) : (uartTransmit s).urxq = s.urxq := rfl
@[simp] theorem uartTransmit_crxq (s : State) : (uartTransmit s).crxq = s.crxq := rfl
@[simp] theorem uartTransmit_armed (s : State) : (uartTransmit s).armed = s.armed := rfl
@[simp] theorem uartTransmit_texp (s : State) : (uartTransmit s).texp = s.texp := rfl
@[simp] theorem uartTransmit_utx (s : State) : (uartTransmit s).utx = s.utx ++ s.txBuf.bytes := rfl
@[simp] theorem uartTransmit_ctx (s : State) : (uartTransmit s).ctx = s.ctx := rfl
@[simp] theorem uartTransmit_schedule (s : State) : (uartTransmit s).schedule = s.schedule := rfl
@[simp] theorem uartTransmit_hostReads (s : State) : (uartTransmit s).hostReads = s.hostReads := rfl

/-! ### startReceive -/

@[simp] theorem startReceive_cfg (s : State) : (startReceive s).cfg = s.cfg := rfl
@[simp] theorem startReceive_tsel (s : State) : (startReceive s).tsel = s.tsel := rfl
@[simp] theorem startReceive_nodeId (s : State) : (startReceive s).nodeId = s.nodeId := rfl
@[simp] theorem startReceive_timeout (s : State) : (startReceive s).timeout = s.timeout := rfl
@[simp] theorem startReceive_baudDiv (s : State) : (startReceive s).baudDiv = s.baudDiv := rfl
@[simp] theorem startReceive_umark0 (s : State) : (startReceive s).umark0 = s.umark0 := rfl
@[simp] theorem startReceive_umark1 (s : State) : (startReceive s).umark1 = s.umark1 := rfl
@[simp] theorem startReceive_cmd (s : State) : (startReceive s).cmd = s.cmd := rfl
@[simp] theorem startReceive_arg0 (s : State) : (startReceive s).arg0 = s.arg0 := rfl
@[simp] theorem startReceive_arg1 (s : State) : (startReceive s).arg1 = s.arg1 := rfl
@[simp] theorem startReceive_busy (s : State) : (startReceive s).busy = s.busy := rfl
@[simp] theorem startReceive_done (s : State) : (startReceive s).done = s.done := rfl
@[simp] theorem startReceive_err (s : State) : (startReceive s).err = s.err := rfl
@[simp] theorem startReceive_isOpen (s : State) : (startReceive s).isOpen = s.isOpen := rfl
@[simp] theorem startReceive_tselAct (s : State) : (startReceive s).tselAct = s.tselAct := rfl
@[simp] theorem startReceive_cmdOvr (s : State) : (startReceive s).cmdOvr = s.cmdOvr := rfl
@[simp] theorem startReceive_urxOvr (s : State) : (startReceive s).urxOvr = s.urxOvr := rfl
@[simp] theorem startReceive_crxOvr (s : State) : (startReceive s).crxOvr = s.crxOvr := rfl
@[simp] theorem startReceive_errKind (s : State) : (startReceive s).errKind = s.errKind := rfl
@[simp] theorem startReceive_errStep (s : State) : (startReceive s).errStep = s.errStep := rfl
@[simp] theorem startReceive_result (s : State) : (startReceive s).result = s.result := rfl
@[simp] theorem startReceive_abortCode (s : State) : (startReceive s).abortCode = s.abortCode := rfl
@[simp] theorem startReceive_seq (s : State) : (startReceive s).seq = s.seq := rfl
@[simp] theorem startReceive_phase (s : State) : (startReceive s).phase = .wait := rfl
@[simp] theorem startReceive_txBuf (s : State) : (startReceive s).txBuf = s.txBuf := rfl
@[simp] theorem startReceive_rxBuf (s : State) : (startReceive s).rxBuf = s.rxBuf := rfl
@[simp] theorem startReceive_rxCnt (s : State) : (startReceive s).rxCnt = 0 := rfl
@[simp] theorem startReceive_syncW (s : State) : (startReceive s).syncW = [] := rfl
@[simp] theorem startReceive_urxq (s : State) : (startReceive s).urxq = s.urxq := rfl
@[simp] theorem startReceive_crxq (s : State) : (startReceive s).crxq = s.crxq := rfl
@[simp] theorem startReceive_armed (s : State) : (startReceive s).armed = true := rfl
@[simp] theorem startReceive_texp (s : State) : (startReceive s).texp = decide (s.timeout = 0#32) := rfl
@[simp] theorem startReceive_utx (s : State) : (startReceive s).utx = s.utx := rfl
@[simp] theorem startReceive_ctx (s : State) : (startReceive s).ctx = s.ctx := rfl
@[simp] theorem startReceive_schedule (s : State) : (startReceive s).schedule = s.schedule := rfl
@[simp] theorem startReceive_hostReads (s : State) : (startReceive s).hostReads = s.hostReads := rfl

/-! ### endReceive -/

@[simp] theorem endReceive_cfg (s : State) : (endReceive s).cfg = s.cfg := rfl
@[simp] theorem endReceive_tsel (s : State) : (endReceive s).tsel = s.tsel := rfl
@[simp] theorem endReceive_nodeId (s : State) : (endReceive s).nodeId = s.nodeId := rfl
@[simp] theorem endReceive_timeout (s : State) : (endReceive s).timeout = s.timeout := rfl
@[simp] theorem endReceive_baudDiv (s : State) : (endReceive s).baudDiv = s.baudDiv := rfl
@[simp] theorem endReceive_umark0 (s : State) : (endReceive s).umark0 = s.umark0 := rfl
@[simp] theorem endReceive_umark1 (s : State) : (endReceive s).umark1 = s.umark1 := rfl
@[simp] theorem endReceive_cmd (s : State) : (endReceive s).cmd = s.cmd := rfl
@[simp] theorem endReceive_arg0 (s : State) : (endReceive s).arg0 = s.arg0 := rfl
@[simp] theorem endReceive_arg1 (s : State) : (endReceive s).arg1 = s.arg1 := rfl
@[simp] theorem endReceive_busy (s : State) : (endReceive s).busy = s.busy := rfl
@[simp] theorem endReceive_done (s : State) : (endReceive s).done = s.done := rfl
@[simp] theorem endReceive_err (s : State) : (endReceive s).err = s.err := rfl
@[simp] theorem endReceive_isOpen (s : State) : (endReceive s).isOpen = s.isOpen := rfl
@[simp] theorem endReceive_tselAct (s : State) : (endReceive s).tselAct = s.tselAct := rfl
@[simp] theorem endReceive_cmdOvr (s : State) : (endReceive s).cmdOvr = s.cmdOvr := rfl
@[simp] theorem endReceive_urxOvr (s : State) : (endReceive s).urxOvr = s.urxOvr := rfl
@[simp] theorem endReceive_crxOvr (s : State) : (endReceive s).crxOvr = s.crxOvr := rfl
@[simp] theorem endReceive_errKind (s : State) : (endReceive s).errKind = s.errKind := rfl
@[simp] theorem endReceive_errStep (s : State) : (endReceive s).errStep = s.errStep := rfl
@[simp] theorem endReceive_result (s : State) : (endReceive s).result = s.result := rfl
@[simp] theorem endReceive_abortCode (s : State) : (endReceive s).abortCode = s.abortCode := rfl
@[simp] theorem endReceive_seq (s : State) : (endReceive s).seq = s.seq := rfl
@[simp] theorem endReceive_phase (s : State) : (endReceive s).phase = s.phase := rfl
@[simp] theorem endReceive_txBuf (s : State) : (endReceive s).txBuf = s.txBuf := rfl
@[simp] theorem endReceive_rxBuf (s : State) : (endReceive s).rxBuf = s.rxBuf := rfl
@[simp] theorem endReceive_rxCnt (s : State) : (endReceive s).rxCnt = 0 := rfl
@[simp] theorem endReceive_syncW (s : State) : (endReceive s).syncW = [] := rfl
@[simp] theorem endReceive_urxq (s : State) : (endReceive s).urxq = s.urxq := rfl
@[simp] theorem endReceive_crxq (s : State) : (endReceive s).crxq = s.crxq := rfl
@[simp] theorem endReceive_armed (s : State) : (endReceive s).armed = false := rfl
@[simp] theorem endReceive_texp (s : State) : (endReceive s).texp = false := rfl
@[simp] theorem endReceive_utx (s : State) : (endReceive s).utx = s.utx := rfl
@[simp] theorem endReceive_ctx (s : State) : (endReceive s).ctx = s.ctx := rfl
@[simp] theorem endReceive_schedule (s : State) : (endReceive s).schedule = s.schedule := rfl
@[simp] theorem endReceive_hostReads (s : State) : (endReceive s).hostReads = s.hostReads := rfl

/-! ### takeCanFrame -/

@[simp] theorem takeCanFrame_cfg (f : SdoFrame) (s : State) : (takeCanFrame f s).cfg = s.cfg := rfl
@[simp] theorem takeCanFrame_tsel (f : SdoFrame) (s : State) : (takeCanFrame f s).tsel = s.tsel := rfl
@[simp] theorem takeCanFrame_nodeId (f : SdoFrame) (s : State) : (takeCanFrame f s).nodeId = s.nodeId := rfl
@[simp] theorem takeCanFrame_timeout (f : SdoFrame) (s : State) : (takeCanFrame f s).timeout = s.timeout := rfl
@[simp] theorem takeCanFrame_baudDiv (f : SdoFrame) (s : State) : (takeCanFrame f s).baudDiv = s.baudDiv := rfl
@[simp] theorem takeCanFrame_umark0 (f : SdoFrame) (s : State) : (takeCanFrame f s).umark0 = s.umark0 := rfl
@[simp] theorem takeCanFrame_umark1 (f : SdoFrame) (s : State) : (takeCanFrame f s).umark1 = s.umark1 := rfl
@[simp] theorem takeCanFrame_cmd (f : SdoFrame) (s : State) : (takeCanFrame f s).cmd = s.cmd := rfl
@[simp] theorem takeCanFrame_arg0 (f : SdoFrame) (s : State) : (takeCanFrame f s).arg0 = s.arg0 := rfl
@[simp] theorem takeCanFrame_arg1 (f : SdoFrame) (s : State) : (takeCanFrame f s).arg1 = s.arg1 := rfl
@[simp] theorem takeCanFrame_busy (f : SdoFrame) (s : State) : (takeCanFrame f s).busy = s.busy := rfl
@[simp] theorem takeCanFrame_done (f : SdoFrame) (s : State) : (takeCanFrame f s).done = s.done := rfl
@[simp] theorem takeCanFrame_err (f : SdoFrame) (s : State) : (takeCanFrame f s).err = s.err := rfl
@[simp] theorem takeCanFrame_isOpen (f : SdoFrame) (s : State) : (takeCanFrame f s).isOpen = s.isOpen := rfl
@[simp] theorem takeCanFrame_tselAct (f : SdoFrame) (s : State) : (takeCanFrame f s).tselAct = s.tselAct := rfl
@[simp] theorem takeCanFrame_cmdOvr (f : SdoFrame) (s : State) : (takeCanFrame f s).cmdOvr = s.cmdOvr := rfl
@[simp] theorem takeCanFrame_urxOvr (f : SdoFrame) (s : State) : (takeCanFrame f s).urxOvr = s.urxOvr := rfl
@[simp] theorem takeCanFrame_crxOvr (f : SdoFrame) (s : State) : (takeCanFrame f s).crxOvr = s.crxOvr := rfl
@[simp] theorem takeCanFrame_errKind (f : SdoFrame) (s : State) : (takeCanFrame f s).errKind = s.errKind := rfl
@[simp] theorem takeCanFrame_errStep (f : SdoFrame) (s : State) : (takeCanFrame f s).errStep = s.errStep := rfl
@[simp] theorem takeCanFrame_result (f : SdoFrame) (s : State) : (takeCanFrame f s).result = s.result := rfl
@[simp] theorem takeCanFrame_abortCode (f : SdoFrame) (s : State) : (takeCanFrame f s).abortCode = s.abortCode := rfl
@[simp] theorem takeCanFrame_seq (f : SdoFrame) (s : State) : (takeCanFrame f s).seq = s.seq := rfl
@[simp] theorem takeCanFrame_phase (f : SdoFrame) (s : State) : (takeCanFrame f s).phase = s.phase := rfl
@[simp] theorem takeCanFrame_txBuf (f : SdoFrame) (s : State) : (takeCanFrame f s).txBuf = s.txBuf := rfl
@[simp] theorem takeCanFrame_rxBuf (f : SdoFrame) (s : State) : (takeCanFrame f s).rxBuf = { s.rxBuf with body := f } := rfl
@[simp] theorem takeCanFrame_rxCnt (f : SdoFrame) (s : State) : (takeCanFrame f s).rxCnt = s.rxCnt := rfl
@[simp] theorem takeCanFrame_syncW (f : SdoFrame) (s : State) : (takeCanFrame f s).syncW = s.syncW := rfl
@[simp] theorem takeCanFrame_urxq (f : SdoFrame) (s : State) : (takeCanFrame f s).urxq = s.urxq := rfl
@[simp] theorem takeCanFrame_crxq (f : SdoFrame) (s : State) : (takeCanFrame f s).crxq = s.crxq.tail := rfl
@[simp] theorem takeCanFrame_armed (f : SdoFrame) (s : State) : (takeCanFrame f s).armed = s.armed := rfl
@[simp] theorem takeCanFrame_texp (f : SdoFrame) (s : State) : (takeCanFrame f s).texp = s.texp := rfl
@[simp] theorem takeCanFrame_utx (f : SdoFrame) (s : State) : (takeCanFrame f s).utx = s.utx := rfl
@[simp] theorem takeCanFrame_ctx (f : SdoFrame) (s : State) : (takeCanFrame f s).ctx = s.ctx := rfl
@[simp] theorem takeCanFrame_schedule (f : SdoFrame) (s : State) : (takeCanFrame f s).schedule = s.schedule := rfl
@[simp] theorem takeCanFrame_hostReads (f : SdoFrame) (s : State) : (takeCanFrame f s).hostReads = s.hostReads := rfl

/-! ### bodyByte -/

@[simp] theorem bodyByte_cfg (b : Byte) (s : State) : (bodyByte b s).cfg = s.cfg := rfl
@[simp] theorem bodyByte_tsel (b : Byte) (s : State) : (bodyByte b s).tsel = s.tsel := rfl
@[simp] theorem bodyByte_nodeId (b : Byte) (s : State) : (bodyByte b s).nodeId = s.nodeId := rfl
@[simp] theorem bodyByte_timeout (b : Byte) (s : State) : (bodyByte b s).timeout = s.timeout := rfl
@[simp] theorem bodyByte_baudDiv (b : Byte) (s : State) : (bodyByte b s).baudDiv = s.baudDiv := rfl
@[simp] theorem bodyByte_umark0 (b : Byte) (s : State) : (bodyByte b s).umark0 = s.umark0 := rfl
@[simp] theorem bodyByte_umark1 (b : Byte) (s : State) : (bodyByte b s).umark1 = s.umark1 := rfl
@[simp] theorem bodyByte_cmd (b : Byte) (s : State) : (bodyByte b s).cmd = s.cmd := rfl
@[simp] theorem bodyByte_arg0 (b : Byte) (s : State) : (bodyByte b s).arg0 = s.arg0 := rfl
@[simp] theorem bodyByte_arg1 (b : Byte) (s : State) : (bodyByte b s).arg1 = s.arg1 := rfl
@[simp] theorem bodyByte_busy (b : Byte) (s : State) : (bodyByte b s).busy = s.busy := rfl
@[simp] theorem bodyByte_done (b : Byte) (s : State) : (bodyByte b s).done = s.done := rfl
@[simp] theorem bodyByte_err (b : Byte) (s : State) : (bodyByte b s).err = s.err := rfl
@[simp] theorem bodyByte_isOpen (b : Byte) (s : State) : (bodyByte b s).isOpen = s.isOpen := rfl
@[simp] theorem bodyByte_tselAct (b : Byte) (s : State) : (bodyByte b s).tselAct = s.tselAct := rfl
@[simp] theorem bodyByte_cmdOvr (b : Byte) (s : State) : (bodyByte b s).cmdOvr = s.cmdOvr := rfl
@[simp] theorem bodyByte_urxOvr (b : Byte) (s : State) : (bodyByte b s).urxOvr = s.urxOvr := rfl
@[simp] theorem bodyByte_crxOvr (b : Byte) (s : State) : (bodyByte b s).crxOvr = s.crxOvr := rfl
@[simp] theorem bodyByte_errKind (b : Byte) (s : State) : (bodyByte b s).errKind = s.errKind := rfl
@[simp] theorem bodyByte_errStep (b : Byte) (s : State) : (bodyByte b s).errStep = s.errStep := rfl
@[simp] theorem bodyByte_result (b : Byte) (s : State) : (bodyByte b s).result = s.result := rfl
@[simp] theorem bodyByte_abortCode (b : Byte) (s : State) : (bodyByte b s).abortCode = s.abortCode := rfl
@[simp] theorem bodyByte_seq (b : Byte) (s : State) : (bodyByte b s).seq = s.seq := rfl
@[simp] theorem bodyByte_phase (b : Byte) (s : State) : (bodyByte b s).phase = s.phase := rfl
@[simp] theorem bodyByte_txBuf (b : Byte) (s : State) : (bodyByte b s).txBuf = s.txBuf := rfl
@[simp] theorem bodyByte_rxBuf (b : Byte) (s : State) : (bodyByte b s).rxBuf = s.rxBuf.setByte s.rxCnt b := rfl
@[simp] theorem bodyByte_rxCnt (b : Byte) (s : State) : (bodyByte b s).rxCnt = s.rxCnt + 1 := rfl
@[simp] theorem bodyByte_syncW (b : Byte) (s : State) : (bodyByte b s).syncW = s.syncW := rfl
@[simp] theorem bodyByte_urxq (b : Byte) (s : State) : (bodyByte b s).urxq = s.urxq := rfl
@[simp] theorem bodyByte_crxq (b : Byte) (s : State) : (bodyByte b s).crxq = s.crxq := rfl
@[simp] theorem bodyByte_armed (b : Byte) (s : State) : (bodyByte b s).armed = s.armed := rfl
@[simp] theorem bodyByte_texp (b : Byte) (s : State) : (bodyByte b s).texp = s.texp := rfl
@[simp] theorem bodyByte_utx (b : Byte) (s : State) : (bodyByte b s).utx = s.utx := rfl
@[simp] theorem bodyByte_ctx (b : Byte) (s : State) : (bodyByte b s).ctx = s.ctx := rfl
@[simp] theorem bodyByte_schedule (b : Byte) (s : State) : (bodyByte b s).schedule = s.schedule := rfl
@[simp] theorem bodyByte_hostReads (b : Byte) (s : State) : (bodyByte b s).hostReads = s.hostReads := rfl

/-! ### doClose -/

@[simp] theorem doClose_cfg (s : State) : (doClose s).cfg = s.cfg := rfl
@[simp] theorem doClose_tsel (s : State) : (doClose s).tsel = s.tsel := rfl
@[simp] theorem doClose_nodeId (s : State) : (doClose s).nodeId = s.nodeId := rfl
@[simp] theorem doClose_timeout (s : State) : (doClose s).timeout = s.timeout := rfl
@[simp] theorem doClose_baudDiv (s : State) : (doClose s).baudDiv = s.baudDiv := rfl
@[simp] theorem doClose_umark0 (s : State) : (doClose s).umark0 = s.umark0 := rfl
@[simp] theorem doClose_umark1 (s : State) : (doClose s).umark1 = s.umark1 := rfl
@[simp] theorem doClose_cmd (s : State) : (doClose s).cmd = s.cmd := rfl
@[simp] theorem doClose_arg0 (s : State) : (doClose s).arg0 = s.arg0 := rfl
@[simp] theorem doClose_arg1 (s : State) : (doClose s).arg1 = s.arg1 := rfl
@[simp] theorem doClose_busy (s : State) : (doClose s).busy = s.busy := rfl
@[simp] theorem doClose_done (s : State) : (doClose s).done = s.done := rfl
@[simp] theorem doClose_err (s : State) : (doClose s).err = s.err := rfl
@[simp] theorem doClose_isOpen (s : State) : (doClose s).isOpen = false := rfl
@[simp] theorem doClose_tselAct (s : State) : (doClose s).tselAct = s.tselAct := rfl
@[simp] theorem doClose_cmdOvr (s : State) : (doClose s).cmdOvr = s.cmdOvr := rfl
@[simp] theorem doClose_urxOvr (s : State) : (doClose s).urxOvr = s.urxOvr := rfl
@[simp] theorem doClose_crxOvr (s : State) : (doClose s).crxOvr = s.crxOvr := rfl
@[simp] theorem doClose_errKind (s : State) : (doClose s).errKind = s.errKind := rfl
@[simp] theorem doClose_errStep (s : State) : (doClose s).errStep = s.errStep := rfl
@[simp] theorem doClose_result (s : State) : (doClose s).result = s.result := rfl
@[simp] theorem doClose_abortCode (s : State) : (doClose s).abortCode = s.abortCode := rfl
@[simp] theorem doClose_seq (s : State) : (doClose s).seq = s.seq := rfl
@[simp] theorem doClose_phase (s : State) : (doClose s).phase = s.phase := rfl
@[simp] theorem doClose_txBuf (s : State) : (doClose s).txBuf = s.txBuf := rfl
@[simp] theorem doClose_rxBuf (s : State) : (doClose s).rxBuf = s.rxBuf := rfl
@[simp] theorem doClose_rxCnt (s : State) : (doClose s).rxCnt = s.rxCnt := rfl
@[simp] theorem doClose_syncW (s : State) : (doClose s).syncW = s.syncW := rfl
@[simp] theorem doClose_urxq (s : State) : (doClose s).urxq = [] := rfl
@[simp] theorem doClose_crxq (s : State) : (doClose s).crxq = [] := rfl
@[simp] theorem doClose_armed (s : State) : (doClose s).armed = s.armed := rfl
@[simp] theorem doClose_texp (s : State) : (doClose s).texp = s.texp := rfl
@[simp] theorem doClose_utx (s : State) : (doClose s).utx = s.utx := rfl
@[simp] theorem doClose_ctx (s : State) : (doClose s).ctx = s.ctx := rfl
@[simp] theorem doClose_schedule (s : State) : (doClose s).schedule = s.schedule := rfl
@[simp] theorem doClose_hostReads (s : State) : (doClose s).hostReads = s.hostReads := rfl

/-! ### accept -/

@[simp] theorem accept_cfg (w : Word) (s : State) : (accept w s).cfg = s.cfg := rfl
@[simp] theorem accept_tsel (w : Word) (s : State) : (accept w s).tsel = s.tsel := rfl
@[simp] theorem accept_nodeId (w : Word) (s : State) : (accept w s).nodeId = s.nodeId := rfl
@[simp] theorem accept_timeout (w : Word) (s : State) : (accept w s).timeout = s.timeout := rfl
@[simp] theorem accept_baudDiv (w : Word) (s : State) : (accept w s).baudDiv = s.baudDiv := rfl
@[simp] theorem accept_umark0 (w : Word) (s : State) : (accept w s).umark0 = s.umark0 := rfl
@[simp] theorem accept_umark1 (w : Word) (s : State) : (accept w s).umark1 = s.umark1 := rfl
@[simp] theorem accept_cmd (w : Word) (s : State) : (accept w s).cmd = 0#8 ++ w.extractLsb' 0 24 := rfl
@[simp] theorem accept_arg0 (w : Word) (s : State) : (accept w s).arg0 = s.arg0 := rfl
@[simp] theorem accept_arg1 (w : Word) (s : State) : (accept w s).arg1 = s.arg1 := rfl
@[simp] theorem accept_busy (w : Word) (s : State) : (accept w s).busy = true := rfl
@[simp] theorem accept_done (w : Word) (s : State) : (accept w s).done = false := rfl
@[simp] theorem accept_err (w : Word) (s : State) : (accept w s).err = false := rfl
@[simp] theorem accept_isOpen (w : Word) (s : State) : (accept w s).isOpen = s.isOpen := rfl
@[simp] theorem accept_tselAct (w : Word) (s : State) : (accept w s).tselAct = s.tselAct := rfl
@[simp] theorem accept_cmdOvr (w : Word) (s : State) : (accept w s).cmdOvr = s.cmdOvr := rfl
@[simp] theorem accept_urxOvr (w : Word) (s : State) : (accept w s).urxOvr = s.urxOvr := rfl
@[simp] theorem accept_crxOvr (w : Word) (s : State) : (accept w s).crxOvr = s.crxOvr := rfl
@[simp] theorem accept_errKind (w : Word) (s : State) : (accept w s).errKind = none := rfl
@[simp] theorem accept_errStep (w : Word) (s : State) : (accept w s).errStep = 0#4 := rfl
@[simp] theorem accept_result (w : Word) (s : State) : (accept w s).result = 0#32 := rfl
@[simp] theorem accept_abortCode (w : Word) (s : State) : (accept w s).abortCode = 0#32 := rfl
@[simp] theorem accept_seq (w : Word) (s : State) : (accept w s).seq = 0#2 := rfl
@[simp] theorem accept_phase (w : Word) (s : State) : (accept w s).phase = .issue := rfl
@[simp] theorem accept_txBuf (w : Word) (s : State) : (accept w s).txBuf = s.txBuf := rfl
@[simp] theorem accept_rxBuf (w : Word) (s : State) : (accept w s).rxBuf = s.rxBuf := rfl
@[simp] theorem accept_rxCnt (w : Word) (s : State) : (accept w s).rxCnt = s.rxCnt := rfl
@[simp] theorem accept_syncW (w : Word) (s : State) : (accept w s).syncW = s.syncW := rfl
@[simp] theorem accept_urxq (w : Word) (s : State) : (accept w s).urxq = s.urxq := rfl
@[simp] theorem accept_crxq (w : Word) (s : State) : (accept w s).crxq = s.crxq := rfl
@[simp] theorem accept_armed (w : Word) (s : State) : (accept w s).armed = s.armed := rfl
@[simp] theorem accept_texp (w : Word) (s : State) : (accept w s).texp = s.texp := rfl
@[simp] theorem accept_utx (w : Word) (s : State) : (accept w s).utx = s.utx := rfl
@[simp] theorem accept_ctx (w : Word) (s : State) : (accept w s).ctx = s.ctx := rfl
@[simp] theorem accept_schedule (w : Word) (s : State) : (accept w s).schedule = s.schedule := rfl
@[simp] theorem accept_hostReads (w : Word) (s : State) : (accept w s).hostReads = s.hostReads := rfl

/-! ### clearSticky -/

@[simp] theorem clearSticky_cfg (w : Word) (s : State) : (clearSticky w s).cfg = s.cfg := rfl
@[simp] theorem clearSticky_tsel (w : Word) (s : State) : (clearSticky w s).tsel = s.tsel := rfl
@[simp] theorem clearSticky_nodeId (w : Word) (s : State) : (clearSticky w s).nodeId = s.nodeId := rfl
@[simp] theorem clearSticky_timeout (w : Word) (s : State) : (clearSticky w s).timeout = s.timeout := rfl
@[simp] theorem clearSticky_baudDiv (w : Word) (s : State) : (clearSticky w s).baudDiv = s.baudDiv := rfl
@[simp] theorem clearSticky_umark0 (w : Word) (s : State) : (clearSticky w s).umark0 = s.umark0 := rfl
@[simp] theorem clearSticky_umark1 (w : Word) (s : State) : (clearSticky w s).umark1 = s.umark1 := rfl
@[simp] theorem clearSticky_cmd (w : Word) (s : State) : (clearSticky w s).cmd = s.cmd := rfl
@[simp] theorem clearSticky_arg0 (w : Word) (s : State) : (clearSticky w s).arg0 = s.arg0 := rfl
@[simp] theorem clearSticky_arg1 (w : Word) (s : State) : (clearSticky w s).arg1 = s.arg1 := rfl
@[simp] theorem clearSticky_busy (w : Word) (s : State) : (clearSticky w s).busy = s.busy := rfl
@[simp] theorem clearSticky_done (w : Word) (s : State) : (clearSticky w s).done = s.done := rfl
@[simp] theorem clearSticky_err (w : Word) (s : State) : (clearSticky w s).err = s.err := rfl
@[simp] theorem clearSticky_isOpen (w : Word) (s : State) : (clearSticky w s).isOpen = s.isOpen := rfl
@[simp] theorem clearSticky_tselAct (w : Word) (s : State) : (clearSticky w s).tselAct = s.tselAct := rfl
@[simp] theorem clearSticky_cmdOvr (w : Word) (s : State) : (clearSticky w s).cmdOvr = (s.cmdOvr && !w.getLsbD 5) := rfl
@[simp] theorem clearSticky_urxOvr (w : Word) (s : State) : (clearSticky w s).urxOvr = (s.urxOvr && !w.getLsbD 6) := rfl
@[simp] theorem clearSticky_crxOvr (w : Word) (s : State) : (clearSticky w s).crxOvr = (s.crxOvr && !w.getLsbD 7) := rfl
@[simp] theorem clearSticky_errKind (w : Word) (s : State) : (clearSticky w s).errKind = s.errKind := rfl
@[simp] theorem clearSticky_errStep (w : Word) (s : State) : (clearSticky w s).errStep = s.errStep := rfl
@[simp] theorem clearSticky_result (w : Word) (s : State) : (clearSticky w s).result = s.result := rfl
@[simp] theorem clearSticky_abortCode (w : Word) (s : State) : (clearSticky w s).abortCode = s.abortCode := rfl
@[simp] theorem clearSticky_seq (w : Word) (s : State) : (clearSticky w s).seq = s.seq := rfl
@[simp] theorem clearSticky_phase (w : Word) (s : State) : (clearSticky w s).phase = s.phase := rfl
@[simp] theorem clearSticky_txBuf (w : Word) (s : State) : (clearSticky w s).txBuf = s.txBuf := rfl
@[simp] theorem clearSticky_rxBuf (w : Word) (s : State) : (clearSticky w s).rxBuf = s.rxBuf := rfl
@[simp] theorem clearSticky_rxCnt (w : Word) (s : State) : (clearSticky w s).rxCnt = s.rxCnt := rfl
@[simp] theorem clearSticky_syncW (w : Word) (s : State) : (clearSticky w s).syncW = s.syncW := rfl
@[simp] theorem clearSticky_urxq (w : Word) (s : State) : (clearSticky w s).urxq = s.urxq := rfl
@[simp] theorem clearSticky_crxq (w : Word) (s : State) : (clearSticky w s).crxq = s.crxq := rfl
@[simp] theorem clearSticky_armed (w : Word) (s : State) : (clearSticky w s).armed = s.armed := rfl
@[simp] theorem clearSticky_texp (w : Word) (s : State) : (clearSticky w s).texp = s.texp := rfl
@[simp] theorem clearSticky_utx (w : Word) (s : State) : (clearSticky w s).utx = s.utx := rfl
@[simp] theorem clearSticky_ctx (w : Word) (s : State) : (clearSticky w s).ctx = s.ctx := rfl
@[simp] theorem clearSticky_schedule (w : Word) (s : State) : (clearSticky w s).schedule = s.schedule := rfl
@[simp] theorem clearSticky_hostReads (w : Word) (s : State) : (clearSticky w s).hostReads = s.hostReads := rfl

/-! ### hostReadEvent -/

@[simp] theorem hostReadEvent_cfg (a : Nat) (s : State) : (hostReadEvent a s).cfg = s.cfg := rfl
@[simp] theorem hostReadEvent_tsel (a : Nat) (s : State) : (hostReadEvent a s).tsel = s.tsel := rfl
@[simp] theorem hostReadEvent_nodeId (a : Nat) (s : State) : (hostReadEvent a s).nodeId = s.nodeId := rfl
@[simp] theorem hostReadEvent_timeout (a : Nat) (s : State) : (hostReadEvent a s).timeout = s.timeout := rfl
@[simp] theorem hostReadEvent_baudDiv (a : Nat) (s : State) : (hostReadEvent a s).baudDiv = s.baudDiv := rfl
@[simp] theorem hostReadEvent_umark0 (a : Nat) (s : State) : (hostReadEvent a s).umark0 = s.umark0 := rfl
@[simp] theorem hostReadEvent_umark1 (a : Nat) (s : State) : (hostReadEvent a s).umark1 = s.umark1 := rfl
@[simp] theorem hostReadEvent_cmd (a : Nat) (s : State) : (hostReadEvent a s).cmd = s.cmd := rfl
@[simp] theorem hostReadEvent_arg0 (a : Nat) (s : State) : (hostReadEvent a s).arg0 = s.arg0 := rfl
@[simp] theorem hostReadEvent_arg1 (a : Nat) (s : State) : (hostReadEvent a s).arg1 = s.arg1 := rfl
@[simp] theorem hostReadEvent_busy (a : Nat) (s : State) : (hostReadEvent a s).busy = s.busy := rfl
@[simp] theorem hostReadEvent_done (a : Nat) (s : State) : (hostReadEvent a s).done = s.done := rfl
@[simp] theorem hostReadEvent_err (a : Nat) (s : State) : (hostReadEvent a s).err = s.err := rfl
@[simp] theorem hostReadEvent_isOpen (a : Nat) (s : State) : (hostReadEvent a s).isOpen = s.isOpen := rfl
@[simp] theorem hostReadEvent_tselAct (a : Nat) (s : State) : (hostReadEvent a s).tselAct = s.tselAct := rfl
@[simp] theorem hostReadEvent_cmdOvr (a : Nat) (s : State) : (hostReadEvent a s).cmdOvr = s.cmdOvr := rfl
@[simp] theorem hostReadEvent_urxOvr (a : Nat) (s : State) : (hostReadEvent a s).urxOvr = s.urxOvr := rfl
@[simp] theorem hostReadEvent_crxOvr (a : Nat) (s : State) : (hostReadEvent a s).crxOvr = s.crxOvr := rfl
@[simp] theorem hostReadEvent_errKind (a : Nat) (s : State) : (hostReadEvent a s).errKind = s.errKind := rfl
@[simp] theorem hostReadEvent_errStep (a : Nat) (s : State) : (hostReadEvent a s).errStep = s.errStep := rfl
@[simp] theorem hostReadEvent_result (a : Nat) (s : State) : (hostReadEvent a s).result = s.result := rfl
@[simp] theorem hostReadEvent_abortCode (a : Nat) (s : State) : (hostReadEvent a s).abortCode = s.abortCode := rfl
@[simp] theorem hostReadEvent_seq (a : Nat) (s : State) : (hostReadEvent a s).seq = s.seq := rfl
@[simp] theorem hostReadEvent_phase (a : Nat) (s : State) : (hostReadEvent a s).phase = s.phase := rfl
@[simp] theorem hostReadEvent_txBuf (a : Nat) (s : State) : (hostReadEvent a s).txBuf = s.txBuf := rfl
@[simp] theorem hostReadEvent_rxBuf (a : Nat) (s : State) : (hostReadEvent a s).rxBuf = s.rxBuf := rfl
@[simp] theorem hostReadEvent_rxCnt (a : Nat) (s : State) : (hostReadEvent a s).rxCnt = s.rxCnt := rfl
@[simp] theorem hostReadEvent_syncW (a : Nat) (s : State) : (hostReadEvent a s).syncW = s.syncW := rfl
@[simp] theorem hostReadEvent_urxq (a : Nat) (s : State) : (hostReadEvent a s).urxq = s.urxq := rfl
@[simp] theorem hostReadEvent_crxq (a : Nat) (s : State) : (hostReadEvent a s).crxq = s.crxq := rfl
@[simp] theorem hostReadEvent_armed (a : Nat) (s : State) : (hostReadEvent a s).armed = s.armed := rfl
@[simp] theorem hostReadEvent_texp (a : Nat) (s : State) : (hostReadEvent a s).texp = s.texp := rfl
@[simp] theorem hostReadEvent_utx (a : Nat) (s : State) : (hostReadEvent a s).utx = s.utx := rfl
@[simp] theorem hostReadEvent_ctx (a : Nat) (s : State) : (hostReadEvent a s).ctx = s.ctx := rfl
@[simp] theorem hostReadEvent_schedule (a : Nat) (s : State) : (hostReadEvent a s).schedule = s.schedule := rfl
@[simp] theorem hostReadEvent_hostReads (a : Nat) (s : State) : (hostReadEvent a s).hostReads = s.hostReads ++ [(a, hostRead a s)] := rfl

/-! ### send: the fields it leaves alone -/

@[simp] theorem send_cfg (f : SdoFrame) (s : State) : (send f s).cfg = s.cfg := by
  unfold send; cases s.tselAct <;> rfl
@[simp] theorem send_tsel (f : SdoFrame) (s : State) : (send f s).tsel = s.tsel := by
  unfold send; cases s.tselAct <;> rfl
@[simp] theorem send_nodeId (f : SdoFrame) (s : State) : (send f s).nodeId = s.nodeId := by
  unfold send; cases s.tselAct <;> rfl
@[simp] theorem send_timeout (f : SdoFrame) (s : State) : (send f s).timeout = s.timeout := by
  unfold send; cases s.tselAct <;> rfl
@[simp] theorem send_baudDiv (f : SdoFrame) (s : State) : (send f s).baudDiv = s.baudDiv := by
  unfold send; cases s.tselAct <;> rfl
@[simp] theorem send_umark0 (f : SdoFrame) (s : State) : (send f s).umark0 = s.umark0 := by
  unfold send; cases s.tselAct <;> rfl
@[simp] theorem send_umark1 (f : SdoFrame) (s : State) : (send f s).umark1 = s.umark1 := by
  unfold send; cases s.tselAct <;> rfl
@[simp] theorem send_cmd (f : SdoFrame) (s : State) : (send f s).cmd = s.cmd := by
  unfold send; cases s.tselAct <;> rfl
@[simp] theorem send_arg0 (f : SdoFrame) (s : State) : (send f s).arg0 = s.arg0 := by
  unfold send; cases s.tselAct <;> rfl
@[simp] theorem send_arg1 (f : SdoFrame) (s : State) : (send f s).arg1 = s.arg1 := by
  unfold send; cases s.tselAct <;> rfl
@[simp] theorem send_busy (f : SdoFrame) (s : State) : (send f s).busy = s.busy := by
  unfold send; cases s.tselAct <;> rfl
@[simp] theorem send_done (f : SdoFrame) (s : State) : (send f s).done = s.done := by
  unfold send; cases s.tselAct <;> rfl
@[simp] theorem send_err (f : SdoFrame) (s : State) : (send f s).err = s.err := by
  unfold send; cases s.tselAct <;> rfl
@[simp] theorem send_isOpen (f : SdoFrame) (s : State) : (send f s).isOpen = s.isOpen := by
  unfold send; cases s.tselAct <;> rfl
@[simp] theorem send_tselAct (f : SdoFrame) (s : State) : (send f s).tselAct = s.tselAct := by
  unfold send; cases s.tselAct <;> rfl
@[simp] theorem send_cmdOvr (f : SdoFrame) (s : State) : (send f s).cmdOvr = s.cmdOvr := by
  unfold send; cases s.tselAct <;> rfl
@[simp] theorem send_urxOvr (f : SdoFrame) (s : State) : (send f s).urxOvr = s.urxOvr := by
  unfold send; cases s.tselAct <;> rfl
@[simp] theorem send_crxOvr (f : SdoFrame) (s : State) : (send f s).crxOvr = s.crxOvr := by
  unfold send; cases s.tselAct <;> rfl
@[simp] theorem send_errKind (f : SdoFrame) (s : State) : (send f s).errKind = s.errKind := by
  unfold send; cases s.tselAct <;> rfl
@[simp] theorem send_errStep (f : SdoFrame) (s : State) : (send f s).errStep = s.errStep := by
  unfold send; cases s.tselAct <;> rfl
@[simp] theorem send_result (f : SdoFrame) (s : State) : (send f s).result = s.result := by
  unfold send; cases s.tselAct <;> rfl
@[simp] theorem send_abortCode (f : SdoFrame) (s : State) : (send f s).abortCode = s.abortCode := by
  unfold send; cases s.tselAct <;> rfl
@[simp] theorem send_seq (f : SdoFrame) (s : State) : (send f s).seq = s.seq := by
  unfold send; cases s.tselAct <;> rfl
@[simp] theorem send_phase (f : SdoFrame) (s : State) : (send f s).phase = s.phase := by
  unfold send; cases s.tselAct <;> rfl
@[simp] theorem send_rxBuf (f : SdoFrame) (s : State) : (send f s).rxBuf = s.rxBuf := by
  unfold send; cases s.tselAct <;> rfl
@[simp] theorem send_rxCnt (f : SdoFrame) (s : State) : (send f s).rxCnt = s.rxCnt := by
  unfold send; cases s.tselAct <;> rfl
@[simp] theorem send_syncW (f : SdoFrame) (s : State) : (send f s).syncW = s.syncW := by
  unfold send; cases s.tselAct <;> rfl
@[simp] theorem send_urxq (f : SdoFrame) (s : State) : (send f s).urxq = s.urxq := by
  unfold send; cases s.tselAct <;> rfl
@[simp] theorem send_crxq (f : SdoFrame) (s : State) : (send f s).crxq = s.crxq := by
  unfold send; cases s.tselAct <;> rfl
@[simp] theorem send_armed (f : SdoFrame) (s : State) : (send f s).armed = s.armed := by
  unfold send; cases s.tselAct <;> rfl
@[simp] theorem send_texp (f : SdoFrame) (s : State) : (send f s).texp = s.texp := by
  unfold send; cases s.tselAct <;> rfl
@[simp] theorem send_schedule (f : SdoFrame) (s : State) : (send f s).schedule = s.schedule := by
  unfold send; cases s.tselAct <;> rfl
@[simp] theorem send_hostReads (f : SdoFrame) (s : State) : (send f s).hostReads = s.hostReads := by
  unfold send; cases s.tselAct <;> rfl

/-! ### doOpen: the fields it leaves alone -/

@[simp] theorem doOpen_cfg (s : State) : (doOpen s).cfg = s.cfg := by
  unfold doOpen; split <;> rfl
@[simp] theorem doOpen_tsel (s : State) : (doOpen s).tsel = s.tsel := by
  unfold doOpen; split <;> rfl
@[simp] theorem doOpen_nodeId (s : State) : (doOpen s).nodeId = s.nodeId := by
  unfold doOpen; split <;> rfl
@[simp] theorem doOpen_timeout (s : State) : (doOpen s).timeout = s.timeout := by
  unfold doOpen; split <;> rfl
@[simp] theorem doOpen_baudDiv (s : State) : (doOpen s).baudDiv = s.baudDiv := by
  unfold doOpen; split <;> rfl
@[simp] theorem doOpen_umark0 (s : State) : (doOpen s).umark0 = s.umark0 := by
  unfold doOpen; split <;> rfl
@[simp] theorem doOpen_umark1 (s : State) : (doOpen s).umark1 = s.umark1 := by
  unfold doOpen; split <;> rfl
@[simp] theorem doOpen_cmd (s : State) : (doOpen s).cmd = s.cmd := by
  unfold doOpen; split <;> rfl
@[simp] theorem doOpen_arg0 (s : State) : (doOpen s).arg0 = s.arg0 := by
  unfold doOpen; split <;> rfl
@[simp] theorem doOpen_arg1 (s : State) : (doOpen s).arg1 = s.arg1 := by
  unfold doOpen; split <;> rfl
@[simp] theorem doOpen_busy (s : State) : (doOpen s).busy = s.busy := by
  unfold doOpen; split <;> rfl
@[simp] theorem doOpen_done (s : State) : (doOpen s).done = s.done := by
  unfold doOpen; split <;> rfl
@[simp] theorem doOpen_err (s : State) : (doOpen s).err = s.err := by
  unfold doOpen; split <;> rfl
@[simp] theorem doOpen_cmdOvr (s : State) : (doOpen s).cmdOvr = s.cmdOvr := by
  unfold doOpen; split <;> rfl
@[simp] theorem doOpen_urxOvr (s : State) : (doOpen s).urxOvr = s.urxOvr := by
  unfold doOpen; split <;> rfl
@[simp] theorem doOpen_crxOvr (s : State) : (doOpen s).crxOvr = s.crxOvr := by
  unfold doOpen; split <;> rfl
@[simp] theorem doOpen_errKind (s : State) : (doOpen s).errKind = s.errKind := by
  unfold doOpen; split <;> rfl
@[simp] theorem doOpen_errStep (s : State) : (doOpen s).errStep = s.errStep := by
  unfold doOpen; split <;> rfl
@[simp] theorem doOpen_result (s : State) : (doOpen s).result = s.result := by
  unfold doOpen; split <;> rfl
@[simp] theorem doOpen_abortCode (s : State) : (doOpen s).abortCode = s.abortCode := by
  unfold doOpen; split <;> rfl
@[simp] theorem doOpen_seq (s : State) : (doOpen s).seq = s.seq := by
  unfold doOpen; split <;> rfl
@[simp] theorem doOpen_phase (s : State) : (doOpen s).phase = s.phase := by
  unfold doOpen; split <;> rfl
@[simp] theorem doOpen_txBuf (s : State) : (doOpen s).txBuf = s.txBuf := by
  unfold doOpen; split <;> rfl
@[simp] theorem doOpen_rxBuf (s : State) : (doOpen s).rxBuf = s.rxBuf := by
  unfold doOpen; split <;> rfl
@[simp] theorem doOpen_rxCnt (s : State) : (doOpen s).rxCnt = s.rxCnt := by
  unfold doOpen; split <;> rfl
@[simp] theorem doOpen_syncW (s : State) : (doOpen s).syncW = s.syncW := by
  unfold doOpen; split <;> rfl
@[simp] theorem doOpen_armed (s : State) : (doOpen s).armed = s.armed := by
  unfold doOpen; split <;> rfl
@[simp] theorem doOpen_texp (s : State) : (doOpen s).texp = s.texp := by
  unfold doOpen; split <;> rfl
@[simp] theorem doOpen_utx (s : State) : (doOpen s).utx = s.utx := by
  unfold doOpen; split <;> rfl
@[simp] theorem doOpen_ctx (s : State) : (doOpen s).ctx = s.ctx := by
  unfold doOpen; split <;> rfl
@[simp] theorem doOpen_schedule (s : State) : (doOpen s).schedule = s.schedule := by
  unfold doOpen; split <;> rfl
@[simp] theorem doOpen_hostReads (s : State) : (doOpen s).hostReads = s.hostReads := by
  unfold doOpen; split <;> rfl

/-! ### stepDone: the fields it leaves alone -/

@[simp] theorem stepDone_cfg (n : Nat) (s : State) : (stepDone n s).cfg = s.cfg := by
  unfold stepDone; split <;> rfl
@[simp] theorem stepDone_tsel (n : Nat) (s : State) : (stepDone n s).tsel = s.tsel := by
  unfold stepDone; split <;> rfl
@[simp] theorem stepDone_nodeId (n : Nat) (s : State) : (stepDone n s).nodeId = s.nodeId := by
  unfold stepDone; split <;> rfl
@[simp] theorem stepDone_timeout (n : Nat) (s : State) : (stepDone n s).timeout = s.timeout := by
  unfold stepDone; split <;> rfl
@[simp] theorem stepDone_baudDiv (n : Nat) (s : State) : (stepDone n s).baudDiv = s.baudDiv := by
  unfold stepDone; split <;> rfl
@[simp] theorem stepDone_umark0 (n : Nat) (s : State) : (stepDone n s).umark0 = s.umark0 := by
  unfold stepDone; split <;> rfl
@[simp] theorem stepDone_umark1 (n : Nat) (s : State) : (stepDone n s).umark1 = s.umark1 := by
  unfold stepDone; split <;> rfl
@[simp] theorem stepDone_cmd (n : Nat) (s : State) : (stepDone n s).cmd = s.cmd := by
  unfold stepDone; split <;> rfl
@[simp] theorem stepDone_arg0 (n : Nat) (s : State) : (stepDone n s).arg0 = s.arg0 := by
  unfold stepDone; split <;> rfl
@[simp] theorem stepDone_arg1 (n : Nat) (s : State) : (stepDone n s).arg1 = s.arg1 := by
  unfold stepDone; split <;> rfl
@[simp] theorem stepDone_err (n : Nat) (s : State) : (stepDone n s).err = s.err := by
  unfold stepDone; split <;> rfl
@[simp] theorem stepDone_isOpen (n : Nat) (s : State) : (stepDone n s).isOpen = s.isOpen := by
  unfold stepDone; split <;> rfl
@[simp] theorem stepDone_tselAct (n : Nat) (s : State) : (stepDone n s).tselAct = s.tselAct := by
  unfold stepDone; split <;> rfl
@[simp] theorem stepDone_cmdOvr (n : Nat) (s : State) : (stepDone n s).cmdOvr = s.cmdOvr := by
  unfold stepDone; split <;> rfl
@[simp] theorem stepDone_urxOvr (n : Nat) (s : State) : (stepDone n s).urxOvr = s.urxOvr := by
  unfold stepDone; split <;> rfl
@[simp] theorem stepDone_crxOvr (n : Nat) (s : State) : (stepDone n s).crxOvr = s.crxOvr := by
  unfold stepDone; split <;> rfl
@[simp] theorem stepDone_errKind (n : Nat) (s : State) : (stepDone n s).errKind = s.errKind := by
  unfold stepDone; split <;> rfl
@[simp] theorem stepDone_errStep (n : Nat) (s : State) : (stepDone n s).errStep = s.errStep := by
  unfold stepDone; split <;> rfl
@[simp] theorem stepDone_result (n : Nat) (s : State) : (stepDone n s).result = s.result := by
  unfold stepDone; split <;> rfl
@[simp] theorem stepDone_abortCode (n : Nat) (s : State) : (stepDone n s).abortCode = s.abortCode := by
  unfold stepDone; split <;> rfl
@[simp] theorem stepDone_txBuf (n : Nat) (s : State) : (stepDone n s).txBuf = s.txBuf := by
  unfold stepDone; split <;> rfl
@[simp] theorem stepDone_rxBuf (n : Nat) (s : State) : (stepDone n s).rxBuf = s.rxBuf := by
  unfold stepDone; split <;> rfl
@[simp] theorem stepDone_urxq (n : Nat) (s : State) : (stepDone n s).urxq = s.urxq := by
  unfold stepDone; split <;> rfl
@[simp] theorem stepDone_crxq (n : Nat) (s : State) : (stepDone n s).crxq = s.crxq := by
  unfold stepDone; split <;> rfl
@[simp] theorem stepDone_utx (n : Nat) (s : State) : (stepDone n s).utx = s.utx := by
  unfold stepDone; split <;> rfl
@[simp] theorem stepDone_ctx (n : Nat) (s : State) : (stepDone n s).ctx = s.ctx := by
  unfold stepDone; split <;> rfl
@[simp] theorem stepDone_schedule (n : Nat) (s : State) : (stepDone n s).schedule = s.schedule := by
  unfold stepDone; split <;> rfl
@[simp] theorem stepDone_hostReads (n : Nat) (s : State) : (stepDone n s).hostReads = s.hostReads := by
  unfold stepDone; split <;> rfl

/-! ### uartRx: the fields it leaves alone -/

@[simp] theorem uartRx_cfg (b : Byte) (s : State) : (uartRx b s).cfg = s.cfg := by
  unfold uartRx; split <;> [split <;> rfl; rfl]
@[simp] theorem uartRx_tsel (b : Byte) (s : State) : (uartRx b s).tsel = s.tsel := by
  unfold uartRx; split <;> [split <;> rfl; rfl]
@[simp] theorem uartRx_nodeId (b : Byte) (s : State) : (uartRx b s).nodeId = s.nodeId := by
  unfold uartRx; split <;> [split <;> rfl; rfl]
@[simp] theorem uartRx_timeout (b : Byte) (s : State) : (uartRx b s).timeout = s.timeout := by
  unfold uartRx; split <;> [split <;> rfl; rfl]
@[simp] theorem uartRx_baudDiv (b : Byte) (s : State) : (uartRx b s).baudDiv = s.baudDiv := by
  unfold uartRx; split <;> [split <;> rfl; rfl]
@[simp] theorem uartRx_umark0 (b : Byte) (s : State) : (uartRx b s).umark0 = s.umark0 := by
  unfold uartRx; split <;> [split <;> rfl; rfl]
@[simp] theorem uartRx_umark1 (b : Byte) (s : State) : (uartRx b s).umark1 = s.umark1 := by
  unfold uartRx; split <;> [split <;> rfl; rfl]
@[simp] theorem uartRx_cmd (b : Byte) (s : State) : (uartRx b s).cmd = s.cmd := by
  unfold uartRx; split <;> [split <;> rfl; rfl]
@[simp] theorem uartRx_arg0 (b : Byte) (s : State) : (uartRx b s).arg0 = s.arg0 := by
  unfold uartRx; split <;> [split <;> rfl; rfl]
@[simp] theorem uartRx_arg1 (b : Byte) (s : State) : (uartRx b s).arg1 = s.arg1 := by
  unfold uartRx; split <;> [split <;> rfl; rfl]
@[simp] theorem uartRx_busy (b : Byte) (s : State) : (uartRx b s).busy = s.busy := by
  unfold uartRx; split <;> [split <;> rfl; rfl]
@[simp] theorem uartRx_done (b : Byte) (s : State) : (uartRx b s).done = s.done := by
  unfold uartRx; split <;> [split <;> rfl; rfl]
@[simp] theorem uartRx_err (b : Byte) (s : State) : (uartRx b s).err = s.err := by
  unfold uartRx; split <;> [split <;> rfl; rfl]
@[simp] theorem uartRx_isOpen (b : Byte) (s : State) : (uartRx b s).isOpen = s.isOpen := by
  unfold uartRx; split <;> [split <;> rfl; rfl]
@[simp] theorem uartRx_tselAct (b : Byte) (s : State) : (uartRx b s).tselAct = s.tselAct := by
  unfold uartRx; split <;> [split <;> rfl; rfl]
@[simp] theorem uartRx_cmdOvr (b : Byte) (s : State) : (uartRx b s).cmdOvr = s.cmdOvr := by
  unfold uartRx; split <;> [split <;> rfl; rfl]
@[simp] theorem uartRx_crxOvr (b : Byte) (s : State) : (uartRx b s).crxOvr = s.crxOvr := by
  unfold uartRx; split <;> [split <;> rfl; rfl]
@[simp] theorem uartRx_errKind (b : Byte) (s : State) : (uartRx b s).errKind = s.errKind := by
  unfold uartRx; split <;> [split <;> rfl; rfl]
@[simp] theorem uartRx_errStep (b : Byte) (s : State) : (uartRx b s).errStep = s.errStep := by
  unfold uartRx; split <;> [split <;> rfl; rfl]
@[simp] theorem uartRx_result (b : Byte) (s : State) : (uartRx b s).result = s.result := by
  unfold uartRx; split <;> [split <;> rfl; rfl]
@[simp] theorem uartRx_abortCode (b : Byte) (s : State) : (uartRx b s).abortCode = s.abortCode := by
  unfold uartRx; split <;> [split <;> rfl; rfl]
@[simp] theorem uartRx_seq (b : Byte) (s : State) : (uartRx b s).seq = s.seq := by
  unfold uartRx; split <;> [split <;> rfl; rfl]
@[simp] theorem uartRx_phase (b : Byte) (s : State) : (uartRx b s).phase = s.phase := by
  unfold uartRx; split <;> [split <;> rfl; rfl]
@[simp] theorem uartRx_txBuf (b : Byte) (s : State) : (uartRx b s).txBuf = s.txBuf := by
  unfold uartRx; split <;> [split <;> rfl; rfl]
@[simp] theorem uartRx_rxBuf (b : Byte) (s : State) : (uartRx b s).rxBuf = s.rxBuf := by
  unfold uartRx; split <;> [split <;> rfl; rfl]
@[simp] theorem uartRx_rxCnt (b : Byte) (s : State) : (uartRx b s).rxCnt = s.rxCnt := by
  unfold uartRx; split <;> [split <;> rfl; rfl]
@[simp] theorem uartRx_syncW (b : Byte) (s : State) : (uartRx b s).syncW = s.syncW := by
  unfold uartRx; split <;> [split <;> rfl; rfl]
@[simp] theorem uartRx_crxq (b : Byte) (s : State) : (uartRx b s).crxq = s.crxq := by
  unfold uartRx; split <;> [split <;> rfl; rfl]
@[simp] theorem uartRx_armed (b : Byte) (s : State) : (uartRx b s).armed = s.armed := by
  unfold uartRx; split <;> [split <;> rfl; rfl]
@[simp] theorem uartRx_texp (b : Byte) (s : State) : (uartRx b s).texp = s.texp := by
  unfold uartRx; split <;> [split <;> rfl; rfl]
@[simp] theorem uartRx_utx (b : Byte) (s : State) : (uartRx b s).utx = s.utx := by
  unfold uartRx; split <;> [split <;> rfl; rfl]
@[simp] theorem uartRx_ctx (b : Byte) (s : State) : (uartRx b s).ctx = s.ctx := by
  unfold uartRx; split <;> [split <;> rfl; rfl]
@[simp] theorem uartRx_schedule (b : Byte) (s : State) : (uartRx b s).schedule = s.schedule := by
  unfold uartRx; split <;> [split <;> rfl; rfl]
@[simp] theorem uartRx_hostReads (b : Byte) (s : State) : (uartRx b s).hostReads = s.hostReads := by
  unfold uartRx; split <;> [split <;> rfl; rfl]

/-! ### canRx: the fields it leaves alone -/

@[simp] theorem canRx_cfg (f : CanRxFrame) (s : State) : (canRx f s).cfg = s.cfg := by
  unfold canRx; split <;> [split <;> rfl; rfl]
@[simp] theorem canRx_tsel (f : CanRxFrame) (s : State) : (canRx f s).tsel = s.tsel := by
  unfold canRx; split <;> [split <;> rfl; rfl]
@[simp] theorem canRx_nodeId (f : CanRxFrame) (s : State) : (canRx f s).nodeId = s.nodeId := by
  unfold canRx; split <;> [split <;> rfl; rfl]
@[simp] theorem canRx_timeout (f : CanRxFrame) (s : State) : (canRx f s).timeout = s.timeout := by
  unfold canRx; split <;> [split <;> rfl; rfl]
@[simp] theorem canRx_baudDiv (f : CanRxFrame) (s : State) : (canRx f s).baudDiv = s.baudDiv := by
  unfold canRx; split <;> [split <;> rfl; rfl]
@[simp] theorem canRx_umark0 (f : CanRxFrame) (s : State) : (canRx f s).umark0 = s.umark0 := by
  unfold canRx; split <;> [split <;> rfl; rfl]
@[simp] theorem canRx_umark1 (f : CanRxFrame) (s : State) : (canRx f s).umark1 = s.umark1 := by
  unfold canRx; split <;> [split <;> rfl; rfl]
@[simp] theorem canRx_cmd (f : CanRxFrame) (s : State) : (canRx f s).cmd = s.cmd := by
  unfold canRx; split <;> [split <;> rfl; rfl]
@[simp] theorem canRx_arg0 (f : CanRxFrame) (s : State) : (canRx f s).arg0 = s.arg0 := by
  unfold canRx; split <;> [split <;> rfl; rfl]
@[simp] theorem canRx_arg1 (f : CanRxFrame) (s : State) : (canRx f s).arg1 = s.arg1 := by
  unfold canRx; split <;> [split <;> rfl; rfl]
@[simp] theorem canRx_busy (f : CanRxFrame) (s : State) : (canRx f s).busy = s.busy := by
  unfold canRx; split <;> [split <;> rfl; rfl]
@[simp] theorem canRx_done (f : CanRxFrame) (s : State) : (canRx f s).done = s.done := by
  unfold canRx; split <;> [split <;> rfl; rfl]
@[simp] theorem canRx_err (f : CanRxFrame) (s : State) : (canRx f s).err = s.err := by
  unfold canRx; split <;> [split <;> rfl; rfl]
@[simp] theorem canRx_isOpen (f : CanRxFrame) (s : State) : (canRx f s).isOpen = s.isOpen := by
  unfold canRx; split <;> [split <;> rfl; rfl]
@[simp] theorem canRx_tselAct (f : CanRxFrame) (s : State) : (canRx f s).tselAct = s.tselAct := by
  unfold canRx; split <;> [split <;> rfl; rfl]
@[simp] theorem canRx_cmdOvr (f : CanRxFrame) (s : State) : (canRx f s).cmdOvr = s.cmdOvr := by
  unfold canRx; split <;> [split <;> rfl; rfl]
@[simp] theorem canRx_urxOvr (f : CanRxFrame) (s : State) : (canRx f s).urxOvr = s.urxOvr := by
  unfold canRx; split <;> [split <;> rfl; rfl]
@[simp] theorem canRx_errKind (f : CanRxFrame) (s : State) : (canRx f s).errKind = s.errKind := by
  unfold canRx; split <;> [split <;> rfl; rfl]
@[simp] theorem canRx_errStep (f : CanRxFrame) (s : State) : (canRx f s).errStep = s.errStep := by
  unfold canRx; split <;> [split <;> rfl; rfl]
@[simp] theorem canRx_result (f : CanRxFrame) (s : State) : (canRx f s).result = s.result := by
  unfold canRx; split <;> [split <;> rfl; rfl]
@[simp] theorem canRx_abortCode (f : CanRxFrame) (s : State) : (canRx f s).abortCode = s.abortCode := by
  unfold canRx; split <;> [split <;> rfl; rfl]
@[simp] theorem canRx_seq (f : CanRxFrame) (s : State) : (canRx f s).seq = s.seq := by
  unfold canRx; split <;> [split <;> rfl; rfl]
@[simp] theorem canRx_phase (f : CanRxFrame) (s : State) : (canRx f s).phase = s.phase := by
  unfold canRx; split <;> [split <;> rfl; rfl]
@[simp] theorem canRx_txBuf (f : CanRxFrame) (s : State) : (canRx f s).txBuf = s.txBuf := by
  unfold canRx; split <;> [split <;> rfl; rfl]
@[simp] theorem canRx_rxBuf (f : CanRxFrame) (s : State) : (canRx f s).rxBuf = s.rxBuf := by
  unfold canRx; split <;> [split <;> rfl; rfl]
@[simp] theorem canRx_rxCnt (f : CanRxFrame) (s : State) : (canRx f s).rxCnt = s.rxCnt := by
  unfold canRx; split <;> [split <;> rfl; rfl]
@[simp] theorem canRx_syncW (f : CanRxFrame) (s : State) : (canRx f s).syncW = s.syncW := by
  unfold canRx; split <;> [split <;> rfl; rfl]
@[simp] theorem canRx_urxq (f : CanRxFrame) (s : State) : (canRx f s).urxq = s.urxq := by
  unfold canRx; split <;> [split <;> rfl; rfl]
@[simp] theorem canRx_armed (f : CanRxFrame) (s : State) : (canRx f s).armed = s.armed := by
  unfold canRx; split <;> [split <;> rfl; rfl]
@[simp] theorem canRx_texp (f : CanRxFrame) (s : State) : (canRx f s).texp = s.texp := by
  unfold canRx; split <;> [split <;> rfl; rfl]
@[simp] theorem canRx_utx (f : CanRxFrame) (s : State) : (canRx f s).utx = s.utx := by
  unfold canRx; split <;> [split <;> rfl; rfl]
@[simp] theorem canRx_ctx (f : CanRxFrame) (s : State) : (canRx f s).ctx = s.ctx := by
  unfold canRx; split <;> [split <;> rfl; rfl]
@[simp] theorem canRx_schedule (f : CanRxFrame) (s : State) : (canRx f s).schedule = s.schedule := by
  unfold canRx; split <;> [split <;> rfl; rfl]
@[simp] theorem canRx_hostReads (f : CanRxFrame) (s : State) : (canRx f s).hostReads = s.hostReads := by
  unfold canRx; split <;> [split <;> rfl; rfl]

/-! ### timerExpire: the fields it leaves alone -/

@[simp] theorem timerExpire_cfg (s : State) : (timerExpire s).cfg = s.cfg := by
  unfold timerExpire; split <;> rfl
@[simp] theorem timerExpire_tsel (s : State) : (timerExpire s).tsel = s.tsel := by
  unfold timerExpire; split <;> rfl
@[simp] theorem timerExpire_nodeId (s : State) : (timerExpire s).nodeId = s.nodeId := by
  unfold timerExpire; split <;> rfl
@[simp] theorem timerExpire_timeout (s : State) : (timerExpire s).timeout = s.timeout := by
  unfold timerExpire; split <;> rfl
@[simp] theorem timerExpire_baudDiv (s : State) : (timerExpire s).baudDiv = s.baudDiv := by
  unfold timerExpire; split <;> rfl
@[simp] theorem timerExpire_umark0 (s : State) : (timerExpire s).umark0 = s.umark0 := by
  unfold timerExpire; split <;> rfl
@[simp] theorem timerExpire_umark1 (s : State) : (timerExpire s).umark1 = s.umark1 := by
  unfold timerExpire; split <;> rfl
@[simp] theorem timerExpire_cmd (s : State) : (timerExpire s).cmd = s.cmd := by
  unfold timerExpire; split <;> rfl
@[simp] theorem timerExpire_arg0 (s : State) : (timerExpire s).arg0 = s.arg0 := by
  unfold timerExpire; split <;> rfl
@[simp] theorem timerExpire_arg1 (s : State) : (timerExpire s).arg1 = s.arg1 := by
  unfold timerExpire; split <;> rfl
@[simp] theorem timerExpire_busy (s : State) : (timerExpire s).busy = s.busy := by
  unfold timerExpire; split <;> rfl
@[simp] theorem timerExpire_done (s : State) : (timerExpire s).done = s.done := by
  unfold timerExpire; split <;> rfl
@[simp] theorem timerExpire_err (s : State) : (timerExpire s).err = s.err := by
  unfold timerExpire; split <;> rfl
@[simp] theorem timerExpire_isOpen (s : State) : (timerExpire s).isOpen = s.isOpen := by
  unfold timerExpire; split <;> rfl
@[simp] theorem timerExpire_tselAct (s : State) : (timerExpire s).tselAct = s.tselAct := by
  unfold timerExpire; split <;> rfl
@[simp] theorem timerExpire_cmdOvr (s : State) : (timerExpire s).cmdOvr = s.cmdOvr := by
  unfold timerExpire; split <;> rfl
@[simp] theorem timerExpire_urxOvr (s : State) : (timerExpire s).urxOvr = s.urxOvr := by
  unfold timerExpire; split <;> rfl
@[simp] theorem timerExpire_crxOvr (s : State) : (timerExpire s).crxOvr = s.crxOvr := by
  unfold timerExpire; split <;> rfl
@[simp] theorem timerExpire_errKind (s : State) : (timerExpire s).errKind = s.errKind := by
  unfold timerExpire; split <;> rfl
@[simp] theorem timerExpire_errStep (s : State) : (timerExpire s).errStep = s.errStep := by
  unfold timerExpire; split <;> rfl
@[simp] theorem timerExpire_result (s : State) : (timerExpire s).result = s.result := by
  unfold timerExpire; split <;> rfl
@[simp] theorem timerExpire_abortCode (s : State) : (timerExpire s).abortCode = s.abortCode := by
  unfold timerExpire; split <;> rfl
@[simp] theorem timerExpire_seq (s : State) : (timerExpire s).seq = s.seq := by
  unfold timerExpire; split <;> rfl
@[simp] theorem timerExpire_phase (s : State) : (timerExpire s).phase = s.phase := by
  unfold timerExpire; split <;> rfl
@[simp] theorem timerExpire_txBuf (s : State) : (timerExpire s).txBuf = s.txBuf := by
  unfold timerExpire; split <;> rfl
@[simp] theorem timerExpire_rxBuf (s : State) : (timerExpire s).rxBuf = s.rxBuf := by
  unfold timerExpire; split <;> rfl
@[simp] theorem timerExpire_rxCnt (s : State) : (timerExpire s).rxCnt = s.rxCnt := by
  unfold timerExpire; split <;> rfl
@[simp] theorem timerExpire_syncW (s : State) : (timerExpire s).syncW = s.syncW := by
  unfold timerExpire; split <;> rfl
@[simp] theorem timerExpire_urxq (s : State) : (timerExpire s).urxq = s.urxq := by
  unfold timerExpire; split <;> rfl
@[simp] theorem timerExpire_crxq (s : State) : (timerExpire s).crxq = s.crxq := by
  unfold timerExpire; split <;> rfl
@[simp] theorem timerExpire_armed (s : State) : (timerExpire s).armed = s.armed := by
  unfold timerExpire; split <;> rfl
@[simp] theorem timerExpire_utx (s : State) : (timerExpire s).utx = s.utx := by
  unfold timerExpire; split <;> rfl
@[simp] theorem timerExpire_ctx (s : State) : (timerExpire s).ctx = s.ctx := by
  unfold timerExpire; split <;> rfl
@[simp] theorem timerExpire_schedule (s : State) : (timerExpire s).schedule = s.schedule := by
  unfold timerExpire; split <;> rfl
@[simp] theorem timerExpire_hostReads (s : State) : (timerExpire s).hostReads = s.hostReads := by
  unfold timerExpire; split <;> rfl

/-! ### syncByte: the fields it leaves alone -/

@[simp] theorem syncByte_cfg (b : Byte) (s : State) : (syncByte b s).cfg = s.cfg := by
  unfold syncByte; split <;> rfl
@[simp] theorem syncByte_tsel (b : Byte) (s : State) : (syncByte b s).tsel = s.tsel := by
  unfold syncByte; split <;> rfl
@[simp] theorem syncByte_nodeId (b : Byte) (s : State) : (syncByte b s).nodeId = s.nodeId := by
  unfold syncByte; split <;> rfl
@[simp] theorem syncByte_timeout (b : Byte) (s : State) : (syncByte b s).timeout = s.timeout := by
  unfold syncByte; split <;> rfl
@[simp] theorem syncByte_baudDiv (b : Byte) (s : State) : (syncByte b s).baudDiv = s.baudDiv := by
  unfold syncByte; split <;> rfl
@[simp] theorem syncByte_umark0 (b : Byte) (s : State) : (syncByte b s).umark0 = s.umark0 := by
  unfold syncByte; split <;> rfl
@[simp] theorem syncByte_umark1 (b : Byte) (s : State) : (syncByte b s).umark1 = s.umark1 := by
  unfold syncByte; split <;> rfl
@[simp] theorem syncByte_cmd (b : Byte) (s : State) : (syncByte b s).cmd = s.cmd := by
  unfold syncByte; split <;> rfl
@[simp] theorem syncByte_arg0 (b : Byte) (s : State) : (syncByte b s).arg0 = s.arg0 := by
  unfold syncByte; split <;> rfl
@[simp] theorem syncByte_arg1 (b : Byte) (s : State) : (syncByte b s).arg1 = s.arg1 := by
  unfold syncByte; split <;> rfl
@[simp] theorem syncByte_busy (b : Byte) (s : State) : (syncByte b s).busy = s.busy := by
  unfold syncByte; split <;> rfl
@[simp] theorem syncByte_done (b : Byte) (s : State) : (syncByte b s).done = s.done := by
  unfold syncByte; split <;> rfl
@[simp] theorem syncByte_err (b : Byte) (s : State) : (syncByte b s).err = s.err := by
  unfold syncByte; split <;> rfl
@[simp] theorem syncByte_isOpen (b : Byte) (s : State) : (syncByte b s).isOpen = s.isOpen := by
  unfold syncByte; split <;> rfl
@[simp] theorem syncByte_tselAct (b : Byte) (s : State) : (syncByte b s).tselAct = s.tselAct := by
  unfold syncByte; split <;> rfl
@[simp] theorem syncByte_cmdOvr (b : Byte) (s : State) : (syncByte b s).cmdOvr = s.cmdOvr := by
  unfold syncByte; split <;> rfl
@[simp] theorem syncByte_urxOvr (b : Byte) (s : State) : (syncByte b s).urxOvr = s.urxOvr := by
  unfold syncByte; split <;> rfl
@[simp] theorem syncByte_crxOvr (b : Byte) (s : State) : (syncByte b s).crxOvr = s.crxOvr := by
  unfold syncByte; split <;> rfl
@[simp] theorem syncByte_errKind (b : Byte) (s : State) : (syncByte b s).errKind = s.errKind := by
  unfold syncByte; split <;> rfl
@[simp] theorem syncByte_errStep (b : Byte) (s : State) : (syncByte b s).errStep = s.errStep := by
  unfold syncByte; split <;> rfl
@[simp] theorem syncByte_result (b : Byte) (s : State) : (syncByte b s).result = s.result := by
  unfold syncByte; split <;> rfl
@[simp] theorem syncByte_abortCode (b : Byte) (s : State) : (syncByte b s).abortCode = s.abortCode := by
  unfold syncByte; split <;> rfl
@[simp] theorem syncByte_seq (b : Byte) (s : State) : (syncByte b s).seq = s.seq := by
  unfold syncByte; split <;> rfl
@[simp] theorem syncByte_phase (b : Byte) (s : State) : (syncByte b s).phase = s.phase := by
  unfold syncByte; split <;> rfl
@[simp] theorem syncByte_txBuf (b : Byte) (s : State) : (syncByte b s).txBuf = s.txBuf := by
  unfold syncByte; split <;> rfl
@[simp] theorem syncByte_urxq (b : Byte) (s : State) : (syncByte b s).urxq = s.urxq := by
  unfold syncByte; split <;> rfl
@[simp] theorem syncByte_crxq (b : Byte) (s : State) : (syncByte b s).crxq = s.crxq := by
  unfold syncByte; split <;> rfl
@[simp] theorem syncByte_armed (b : Byte) (s : State) : (syncByte b s).armed = s.armed := by
  unfold syncByte; split <;> rfl
@[simp] theorem syncByte_texp (b : Byte) (s : State) : (syncByte b s).texp = s.texp := by
  unfold syncByte; split <;> rfl
@[simp] theorem syncByte_utx (b : Byte) (s : State) : (syncByte b s).utx = s.utx := by
  unfold syncByte; split <;> rfl
@[simp] theorem syncByte_ctx (b : Byte) (s : State) : (syncByte b s).ctx = s.ctx := by
  unfold syncByte; split <;> rfl
@[simp] theorem syncByte_schedule (b : Byte) (s : State) : (syncByte b s).schedule = s.schedule := by
  unfold syncByte; split <;> rfl
@[simp] theorem syncByte_hostReads (b : Byte) (s : State) : (syncByte b s).hostReads = s.hostReads := by
  unfold syncByte; split <;> rfl

end Sys2Proof.Machine
end

