-- ==== Sys2Proof/Laws/Ops.lean ====
section
/-! SUPPORT. For each shared operation, once, everything it can do. Later proofs cite these and do not unfold the
operation. -/

namespace Sys2Proof.Machine

/-! ### Transmit -/

theorem send_can (f : SdoFrame) (s : State) (h : s.tselAct = .can) :
    send f s = { s with txBuf := wrap f, ctx := s.ctx ++ [⟨canReqIdOf s.nodeId, 8#4, f⟩] } := by
  unfold send
  rw [h]
  rfl

theorem send_uart (f : SdoFrame) (s : State) (h : s.tselAct = .uart) :
    send f s = { s with txBuf := wrap f, utx := s.utx ++ (wrap f).bytes } := by
  unfold send
  rw [h]
  rfl

@[simp] theorem send_txBuf (f : SdoFrame) (s : State) : (send f s).txBuf = wrap f := by
  unfold send
  cases s.tselAct <;> rfl

/-! ### Steps of a micro-program -/

theorem stepDone_last {n : Nat} {s : State} (h : n ≤ s.seq.toNat + 1) : stepDone n s = completeOk s := if_pos h

theorem stepDone_more {n : Nat} {s : State} (h : ¬ n ≤ s.seq.toNat + 1) :
    stepDone n s = { s with seq := s.seq + 1#2, phase := .issue } := if_neg h

theorem stepDone_cases (n : Nat) (s : State) :
    (n ≤ s.seq.toNat + 1 ∧ stepDone n s = completeOk s) ∨
      (s.seq.toNat + 1 < n ∧ stepDone n s = { s with seq := s.seq + 1#2, phase := .issue }) := by
  by_cases h : n ≤ s.seq.toNat + 1
  · exact .inl ⟨h, if_pos h⟩
  · exact .inr ⟨Nat.lt_of_not_le h, if_neg h⟩

theorem issueWrite_can (n : Nat) (f : SdoFrame) (s : State) (h : s.tselAct = .can) :
    issueWrite n f s = startReceive (send f s) := by
  unfold issueWrite
  rw [h]

theorem issueWrite_uart (n : Nat) (f : SdoFrame) (s : State) (h : s.tselAct = .uart) :
    issueWrite n f s = stepDone n (send f s) := by
  unfold issueWrite
  rw [h]

/-- A step either raises UsageError before any send, or sends exactly one frame. -/
theorem issueStep_cases (n : Nat) (st : MicroStep) (s : State) :
    issueStep n st s = completeErr .usageError s ∨
      (∃ r e, st = .rd r ∧ s.cfg.od.lookup r = some e ∧ issueStep n st s = issueRead (encodeRead e.index e.sub) s) ∨
      (∃ r v len e w, st = .wr r v len ∧ s.cfg.od.lookup r = some e ∧ WriteLen.ofByte? len = some w ∧
        issueStep n st s = issueWrite n (encodeWrite e.index e.sub v w) s) := by
  cases st with
  | rd r =>
    cases h : s.cfg.od.lookup r with
    | none => exact .inl (by simp [issueStep, h])
    | some e => exact .inr (.inl ⟨r, e, rfl, h, by simp [issueStep, h]⟩)
  | wr r v len =>
    cases h : s.cfg.od.lookup r with
    | none => exact .inl (by simp [issueStep, h])
    | some e =>
      cases hw : WriteLen.ofByte? len with
      | none => exact .inl (by simp [issueStep, h, hw])
      | some w => exact .inr (.inr ⟨r, v, len, e, w, rfl, h, hw, by simp [issueStep, h, hw]⟩)

/-- Everything a command's issue can answer with a next state. -/
theorem issueCommand_next {p : List MicroStep} {s t : State} (h : issueCommand p s = .next t) :
    (s.phase ≠ .issue ∧ t = s) ∨ (s.phase = .issue ∧ s.isOpen = false ∧ t = completeErr .notConnected s) ∨
      (s.phase = .issue ∧ s.isOpen = true ∧ ∃ st, p[s.seq.toNat]? = some st ∧ t = issueStep p.length st s) := by
  unfold issueCommand at h
  split at h
  · rename_i hp
    exact .inl ⟨hp, by cases h; rfl⟩
  · rename_i hp
    have hp := not_not.mp hp
    split at h
    · rename_i ho
      exact .inr (.inl ⟨hp, ho, by cases h; rfl⟩)
    · rename_i ho
      have ho : s.isOpen = true := by simpa using ho
      split at h
      · cases h
      · rename_i st hst
        exact .inr (.inr ⟨hp, ho, st, hst, by cases h; rfl⟩)

theorem issueConnection_next {f : State → State} {s t : State} (h : issueConnection f s = .next t) :
    (s.phase ≠ .issue ∧ t = s) ∨ (s.phase = .issue ∧ t = completeOk (f s)) := by
  unfold issueConnection at h
  split at h
  · rename_i hp
    exact .inl ⟨hp, by cases h; rfl⟩
  · rename_i hp
    exact .inr ⟨not_not.mp hp, by cases h; rfl⟩

theorem issueFrame_next {k : State → State} {s t : State} (h : issueFrame k s = .next t) :
    (s.phase ≠ .issue ∧ t = s) ∨ (s.phase = .issue ∧ s.isOpen = false ∧ t = completeErr .notConnected s) ∨
      (s.phase = .issue ∧ s.isOpen = true ∧ t = k s) := by
  unfold issueFrame at h
  split at h
  · rename_i hp
    exact .inl ⟨hp, by cases h; rfl⟩
  · rename_i hp
    have hp := not_not.mp hp
    split at h
    · rename_i ho
      exact .inr (.inl ⟨hp, ho, by cases h; rfl⟩)
    · rename_i ho
      exact .inr (.inr ⟨hp, by simpa using ho, by cases h; rfl⟩)

/-! ### Responses -/

/-- Everything the taking of a CAN response can answer with a next state. -/
theorem canResponse_next {f : SdoFrame} {s t : State} (h : canResponse f s = .next t) :
    (¬ (s.phase = .wait ∧ s.tselAct = .can) ∧ t = s) ∨
      (s.phase = .wait ∧ s.tselAct = .can ∧ ∃ r, currentStep s = some (.rd r) ∧
        t = finishRead (currentProg s).length (decodeResponse f) (takeCanFrame f s)) ∨
      (s.phase = .wait ∧ s.tselAct = .can ∧ ∃ r v n, currentStep s = some (.wr r v n) ∧
        t = finishWrite (currentProg s).length (classifyWrite s.cfg.wack f) (takeCanFrame f s)) := by
  unfold canResponse at h
  split at h
  · rename_i hc
    split at h
    · rename_i r hr
      exact .inr (.inl ⟨hc.1, hc.2, r, hr, by cases h; rfl⟩)
    · rename_i r v n hr
      exact .inr (.inr ⟨hc.1, hc.2, r, v, n, hr, by cases h; rfl⟩)
    · cases h
  · rename_i hc
    exact .inl ⟨hc, by cases h; rfl⟩

/-- Everything the taking of the tenth byte of a UART frame can answer with a next state. -/
theorem uartResponse_next {u : UartFrame} {s t : State} (h : uartResponse u s = .next t) :
    (¬ (s.phase = .wait ∧ s.tselAct = .uart) ∧ t = s) ∨
      (s.phase = .wait ∧ s.tselAct = .uart ∧ (∃ r, currentStep s = some (.rd r)) ∧
        ((∃ w, decodeUart s.umark0 s.umark1 u = .ok w ∧
            t = stepDone (currentProg s).length
              (endReceive { s with urxq := s.urxq.tail, rxBuf := u, rxCnt := 10, result := w })) ∨
          (∃ k, decodeUart s.umark0 s.umark1 u = .error k ∧
            t = completeErr k { s with urxq := s.urxq.tail, rxBuf := u, rxCnt := 10 }))) := by
  unfold uartResponse at h
  split at h
  · rename_i hc
    split at h
    · rename_i r hr
      refine .inr ⟨hc.1, hc.2, ⟨r, hr⟩, ?_⟩
      dsimp only at h
      split at h
      · rename_i w hw
        exact .inl ⟨w, hw, by cases h; rfl⟩
      · rename_i k hk
        exact .inr ⟨k, hk, by cases h; rfl⟩
    · cases h
    · cases h
  · rename_i hc
    exact .inl ⟨hc, by cases h; rfl⟩

/-- The sync detector keeps hunting or has a match. -/
theorem syncByte_cases (b : Byte) (s : State) :
    (∃ w, syncScan s.umark0 s.umark1 (s.syncW ++ [b]) = .more w ∧ syncByte b s = { s with syncW := w }) ∨
      (∃ b0 b1 b2, syncScan s.umark0 s.umark1 (s.syncW ++ [b]) = .found b0 b1 b2 ∧
        syncByte b s =
          { s with rxBuf := ((s.rxBuf.setByte 0 b0).setByte 1 b1).setByte 2 b2, rxCnt := 3, syncW := [] }) := by
  unfold syncByte
  split
  · rename_i w hw
    exact .inl ⟨w, hw, rfl⟩
  · rename_i b0 b1 b2 hf
    exact .inr ⟨b0, b1, b2, hf, rfl⟩

/-- A match is the sync byte and the two markers. -/
theorem syncScan_found {m0 m1 b0 b1 b2 : Byte} : ∀ {w : List Byte}, syncScan m0 m1 w = .found b0 b1 b2 →
    b0 = syncByteValue ∧ b1 = m0 ∧ b2 = m1
  | [], h => by cases h
  | b :: rest, h => by
    unfold syncScan at h
    split at h
    · rename_i hb
      split at h
      · split at h
        · rename_i hm
          cases h
          exact ⟨hb, hm.1, hm.2⟩
        · exact syncScan_found h
      · cases h
    · exact syncScan_found h

/-! ### Events of the environment -/

theorem uartRx_cases (b : Byte) (s : State) :
    (¬ (s.isOpen = true ∧ s.tselAct = .uart) ∧ uartRx b s = s) ∨
      (s.isOpen = true ∧ s.tselAct = .uart ∧ hasRoom s.cfg.urxqDepth s.urxq.length = true ∧
        uartRx b s = { s with urxq := s.urxq ++ [b] }) ∨
      (s.isOpen = true ∧ s.tselAct = .uart ∧ hasRoom s.cfg.urxqDepth s.urxq.length = false ∧
        uartRx b s = { s with urxOvr := true }) := by
  unfold uartRx
  split
  · rename_i hc
    split
    · rename_i hr
      exact .inr (.inl ⟨hc.1, hc.2, hr, rfl⟩)
    · rename_i hr
      exact .inr (.inr ⟨hc.1, hc.2, by simpa using hr, rfl⟩)
  · rename_i hc
    exact .inl ⟨hc, rfl⟩

theorem canRx_cases (f : CanRxFrame) (s : State) :
    (canAccepts f s = false ∧ canRx f s = s) ∨
      (canAccepts f s = true ∧ hasRoom s.cfg.crxqDepth s.crxq.length = true ∧
        canRx f s = { s with crxq := s.crxq ++ [⟨f.dlc, dlcMask f.dlc f.data⟩] }) ∨
      (canAccepts f s = true ∧ hasRoom s.cfg.crxqDepth s.crxq.length = false ∧
        canRx f s = { s with crxOvr := true }) := by
  unfold canRx
  split
  · rename_i hc
    split
    · rename_i hr
      exact .inr (.inl ⟨hc, hr, rfl⟩)
    · rename_i hr
      exact .inr (.inr ⟨hc, by simpa using hr, rfl⟩)
  · rename_i hc
    exact .inl ⟨by simpa using hc, rfl⟩

theorem canAccepts_iff (f : CanRxFrame) (s : State) :
    canAccepts f s = true ↔
      s.isOpen = true ∧ s.tselAct = .can ∧ f.rtr = false ∧ f.ident = .std (canRspIdOf s.nodeId) := by
  simp [canAccepts, and_assoc]

/-- A host write while a command is executing changes nothing but CMDOVR and what a STATUS write clears (R48). -/
theorem hostWrite_busy (a : Nat) (w : Word) (s : State) (h : s.busy = true) :
    hostWrite a w s =
      if a = 0x14 then { s with cmdOvr := true } else if a = 0x20 then clearSticky w s else s := by
  unfold hostWrite
  simp only [h, Bool.or_true, if_true]
  by_cases h1 : a = 0x14
  · subst h1; simp
  · by_cases h2 : a = 0x20
    · subst h2; simp
    · simp [h1, h2]

/-! ### The engine -/

theorem engineStep_idle (s : State) (h : s.phase = .idle) : engineStep s = .next s := by
  unfold engineStep
  rw [h]

theorem engineStep_issue (s : State) (h : s.phase = .issue) : engineStep s = engineIssue s := by
  unfold engineStep
  rw [h]

theorem engineStep_wait_can (s : State) (h : s.phase = .wait) (ht : s.tselAct = .can) :
    engineStep s = engineWaitCan s := by
  unfold engineStep
  rw [h, ht]

theorem engineStep_wait_uart (s : State) (h : s.phase = .wait) (ht : s.tselAct = .uart) :
    engineStep s = engineWaitUart s := by
  unfold engineStep
  rw [h, ht]

/-- Issuing the current step by its identifier is issuing it by its command. -/
theorem issueCommand_currentProg (s : State) (st : MicroStep) (hp : s.phase = .issue) (ho : s.isOpen = true)
    (h : currentStep s = some st) : issueCommand (currentProg s) s = .next (issueCurrentStep s) := by
  unfold currentStep at h
  simp [issueCommand, issueCurrentStep, currentStep, hp, ho, h]

/-- With nothing scheduled, a step is an engine step. -/
theorem step_engine (s : State) (h : s.schedule = []) : step s = engineStep s := by
  unfold step runEvent
  rw [h]

end Sys2Proof.Machine
end

