-- ==== Sys2Proof/Laws/PerInstr.lean ====
section
/-! SUPPORT. Per instruction: the encoder's bits match the instruction's row of spec/opcode_table.json (R101): under the
row's mask they are the row's match. The rows of the parameters WACK, UMARK0, UMARK1 show the values of
`WireCtx.table`. -/

namespace Sys2Proof.Laws

/-- `(w AND mask) = match`, byte by byte (R101). -/
def matchesRow : List Byte → List Byte → List Byte → Bool
  | b :: bs, m :: ms, p :: ps => decide (b &&& m = p) && matchesRow bs ms ps
  | [], [], [] => true
  | _, _, _ => false

/-- A row's mask and match, as bytes in the order of `Wire.bytes` (for a host word or an identifier the
model's own order, log 32). -/
structure Row where
  mask : List Byte
  pattern : List Byte

/-- The row of an instruction, copied from the table. -/
def rowOf : Instr → Row
  | .openConn _ _ => ⟨[0xFF#8, 0x00#8, 0x00#8, 0x00#8],
      [0x01#8, 0x00#8, 0x00#8, 0x00#8]⟩
  | .closeConn _ _ => ⟨[0xFF#8, 0x00#8, 0x00#8, 0x00#8],
      [0x02#8, 0x00#8, 0x00#8, 0x00#8]⟩
  | .read _ _ => ⟨[0xFF#8, 0x00#8, 0x00#8, 0x00#8],
      [0x10#8, 0x00#8, 0x00#8, 0x00#8]⟩
  | .write _ _ => ⟨[0xFF#8, 0x00#8, 0x00#8, 0x00#8],
      [0x11#8, 0x00#8, 0x00#8, 0x00#8]⟩
  | .resetError _ _ => ⟨[0xFF#8, 0x00#8, 0x00#8, 0x00#8],
      [0x20#8, 0x00#8, 0x00#8, 0x00#8]⟩
  | .quickStop _ _ => ⟨[0xFF#8, 0x00#8, 0x00#8, 0x00#8],
      [0x21#8, 0x00#8, 0x00#8, 0x00#8]⟩
  | .startMove _ _ => ⟨[0xFF#8, 0x00#8, 0x00#8, 0x00#8],
      [0x22#8, 0x00#8, 0x00#8, 0x00#8]⟩
  | .setTargetPosition _ _ => ⟨[0xFF#8, 0x00#8, 0x00#8, 0x00#8],
      [0x23#8, 0x00#8, 0x00#8, 0x00#8]⟩
  | .setTrapezoidSpeed _ _ => ⟨[0xFF#8, 0x00#8, 0x00#8, 0x00#8],
      [0x24#8, 0x00#8, 0x00#8, 0x00#8]⟩
  | .setPosSpeed _ _ => ⟨[0xFF#8, 0x00#8, 0x00#8, 0x00#8],
      [0x25#8, 0x00#8, 0x00#8, 0x00#8]⟩
  | .sdoRdReq _ _ => ⟨[0xFF#8, 0x00#8, 0x00#8, 0x00#8, 0xFF#8, 0xFF#8, 0xFF#8, 0xFF#8],
      [0x40#8, 0x00#8, 0x00#8, 0x00#8, 0x00#8, 0x00#8, 0x00#8, 0x00#8]⟩
  | .sdoWr1Req _ _ _ => ⟨[0xFF#8, 0x00#8, 0x00#8, 0x00#8, 0x00#8, 0xFF#8, 0xFF#8, 0xFF#8],
      [0x2F#8, 0x00#8, 0x00#8, 0x00#8, 0x00#8, 0x00#8, 0x00#8, 0x00#8]⟩
  | .sdoWr2Req _ _ _ => ⟨[0xFF#8, 0x00#8, 0x00#8, 0x00#8, 0x00#8, 0x00#8, 0xFF#8, 0xFF#8],
      [0x2B#8, 0x00#8, 0x00#8, 0x00#8, 0x00#8, 0x00#8, 0x00#8, 0x00#8]⟩
  | .sdoWr4Req _ _ _ => ⟨[0xFF#8, 0x00#8, 0x00#8, 0x00#8, 0x00#8, 0x00#8, 0x00#8, 0x00#8],
      [0x23#8, 0x00#8, 0x00#8, 0x00#8, 0x00#8, 0x00#8, 0x00#8, 0x00#8]⟩
  | .sdoRd1Rsp _ _ _ _ => ⟨[0xFF#8, 0x00#8, 0x00#8, 0x00#8, 0x00#8, 0x00#8, 0x00#8, 0x00#8],
      [0x4F#8, 0x00#8, 0x00#8, 0x00#8, 0x00#8, 0x00#8, 0x00#8, 0x00#8]⟩
  | .sdoRd2Rsp _ _ _ _ => ⟨[0xFF#8, 0x00#8, 0x00#8, 0x00#8, 0x00#8, 0x00#8, 0x00#8, 0x00#8],
      [0x4B#8, 0x00#8, 0x00#8, 0x00#8, 0x00#8, 0x00#8, 0x00#8, 0x00#8]⟩
  | .sdoRd4Rsp _ _ _ => ⟨[0xFF#8, 0x00#8, 0x00#8, 0x00#8, 0x00#8, 0x00#8, 0x00#8, 0x00#8],
      [0x43#8, 0x00#8, 0x00#8, 0x00#8, 0x00#8, 0x00#8, 0x00#8, 0x00#8]⟩
  | .sdoAbort _ _ _ => ⟨[0xFF#8, 0x00#8, 0x00#8, 0x00#8, 0x00#8, 0x00#8, 0x00#8, 0x00#8],
      [0x80#8, 0x00#8, 0x00#8, 0x00#8, 0x00#8, 0x00#8, 0x00#8, 0x00#8]⟩
  | .sdoWrAck _ _ _ _ => ⟨[0xFF#8, 0x00#8, 0x00#8, 0x00#8, 0x00#8, 0x00#8, 0x00#8, 0x00#8],
      [0x60#8, 0x00#8, 0x00#8, 0x00#8, 0x00#8, 0x00#8, 0x00#8, 0x00#8]⟩
  | .uartRdReq _ _ _ => ⟨[0xFF#8, 0xFF#8, 0x00#8, 0x00#8, 0x00#8, 0xFF#8, 0xFF#8, 0xFF#8, 0xFF#8, 0x00#8],
      [0x7F#8, 0x40#8, 0x00#8, 0x00#8, 0x00#8, 0x00#8, 0x00#8, 0x00#8, 0x00#8, 0x00#8]⟩
  | .uartWr1Req _ _ _ _ => ⟨[0xFF#8, 0xFF#8, 0x00#8, 0x00#8, 0x00#8, 0x00#8, 0xFF#8, 0xFF#8, 0xFF#8, 0x00#8],
      [0x7F#8, 0x2F#8, 0x00#8, 0x00#8, 0x00#8, 0x00#8, 0x00#8, 0x00#8, 0x00#8, 0x00#8]⟩
  | .uartWr2Req _ _ _ _ => ⟨[0xFF#8, 0xFF#8, 0x00#8, 0x00#8, 0x00#8, 0x00#8, 0x00#8, 0xFF#8, 0xFF#8, 0x00#8],
      [0x7F#8, 0x2B#8, 0x00#8, 0x00#8, 0x00#8, 0x00#8, 0x00#8, 0x00#8, 0x00#8, 0x00#8]⟩
  | .uartWr4Req _ _ _ _ => ⟨[0xFF#8, 0xFF#8, 0x00#8, 0x00#8, 0x00#8, 0x00#8, 0x00#8, 0x00#8, 0x00#8, 0x00#8],
      [0x7F#8, 0x23#8, 0x00#8, 0x00#8, 0x00#8, 0x00#8, 0x00#8, 0x00#8, 0x00#8, 0x00#8]⟩
  | .uartRdRsp _ _ _ _ _ _ => ⟨[0xFF#8, 0xFF#8, 0xFF#8, 0x00#8, 0x00#8, 0x00#8, 0x00#8, 0x00#8, 0x00#8, 0x00#8],
      [0x7F#8, 0x43#8, 0x63#8, 0x00#8, 0x00#8, 0x00#8, 0x00#8, 0x00#8, 0x00#8, 0x00#8]⟩
  | .canReqId _ => ⟨[0x80#8, 0x07#8],
      [0x00#8, 0x06#8]⟩
  | .canRspId _ => ⟨[0x80#8, 0x07#8],
      [0x80#8, 0x05#8]⟩

/-- The bits of a well-formed instruction match its row of the opcode table. -/
def TableRow.Statement (i : Instr) : Prop :=
  WellFormed WireCtx.table i → matchesRow (encode i).bytes (rowOf i).mask (rowOf i).pattern = true

/-- The low byte of a request identifier under the row's mask. -/
theorem reqId_bytes : ∀ n : BitVec 7, byteAt (canReqIdOf n) 0 &&& 0x80#8 = 0x00#8 ∧
    byteAt (canReqIdOf n) 1 &&& 0x07#8 = 0x06#8 := by decide +kernel

/-- The bytes of a response identifier under the row's mask. -/
theorem rspId_bytes : ∀ n : BitVec 7, byteAt (canRspIdOf n) 0 &&& 0x80#8 = 0x80#8 ∧
    byteAt (canRspIdOf n) 1 &&& 0x07#8 = 0x05#8 := by decide +kernel

theorem TableRow.openConn (a b : Byte) : TableRow.Statement (.openConn a b) := by
  intro _
  simp [encode, Wire.bytes, rowOf, matchesRow]

theorem TableRow.closeConn (a b : Byte) : TableRow.Statement (.closeConn a b) := by
  intro _
  simp [encode, Wire.bytes, rowOf, matchesRow]

theorem TableRow.read (a b : Byte) : TableRow.Statement (.read a b) := by
  intro _
  simp [encode, Wire.bytes, rowOf, matchesRow]

theorem TableRow.write (a b : Byte) : TableRow.Statement (.write a b) := by
  intro _
  simp [encode, Wire.bytes, rowOf, matchesRow]

theorem TableRow.resetError (a b : Byte) : TableRow.Statement (.resetError a b) := by
  intro _
  simp [encode, Wire.bytes, rowOf, matchesRow]

theorem TableRow.quickStop (a b : Byte) : TableRow.Statement (.quickStop a b) := by
  intro _
  simp [encode, Wire.bytes, rowOf, matchesRow]

theorem TableRow.startMove (a b : Byte) : TableRow.Statement (.startMove a b) := by
  intro _
  simp [encode, Wire.bytes, rowOf, matchesRow]

theorem TableRow.setTargetPosition (a b : Byte) : TableRow.Statement (.setTargetPosition a b) := by
  intro _
  simp [encode, Wire.bytes, rowOf, matchesRow]

theorem TableRow.setTrapezoidSpeed (a b : Byte) : TableRow.Statement (.setTrapezoidSpeed a b) := by
  intro _
  simp [encode, Wire.bytes, rowOf, matchesRow]

theorem TableRow.setPosSpeed (a b : Byte) : TableRow.Statement (.setPosSpeed a b) := by
  intro _
  simp [encode, Wire.bytes, rowOf, matchesRow]

theorem TableRow.sdoRdReq (a : Half) (b : Byte) : TableRow.Statement (.sdoRdReq a b) := by
  intro _
  simp [encode, Wire.bytes, rdReqFrame, addressed, SdoFrame.bytes, rowOf, matchesRow]

theorem TableRow.sdoWr1Req (a : Half) (b c : Byte) : TableRow.Statement (.sdoWr1Req a b c) := by
  intro _
  simp [encode, Wire.bytes, wr1ReqFrame, addressed, SdoFrame.bytes, rowOf, matchesRow]

theorem TableRow.sdoWr2Req (a : Half) (b : Byte) (c : Half) : TableRow.Statement (.sdoWr2Req a b c) := by
  intro _
  simp [encode, Wire.bytes, wr2ReqFrame, addressed, SdoFrame.bytes, rowOf, matchesRow]

theorem TableRow.sdoWr4Req (a : Half) (b : Byte) (c : Word) : TableRow.Statement (.sdoWr4Req a b c) := by
  intro _
  simp [encode, Wire.bytes, wordFrame, addressed, SdoFrame.bytes, rowOf, matchesRow]

theorem TableRow.sdoRd1Rsp (a : Half) (b c : Byte) (d : BitVec 24) : TableRow.Statement (.sdoRd1Rsp a b c d) := by
  intro _
  simp [encode, Wire.bytes, rd1RspFrame, addressed, SdoFrame.bytes, rowOf, matchesRow]

theorem TableRow.sdoRd2Rsp (a : Half) (b : Byte) (c d : Half) : TableRow.Statement (.sdoRd2Rsp a b c d) := by
  intro _
  simp [encode, Wire.bytes, rd2RspFrame, addressed, SdoFrame.bytes, rowOf, matchesRow]

theorem TableRow.sdoRd4Rsp (a : Half) (b : Byte) (c : Word) : TableRow.Statement (.sdoRd4Rsp a b c) := by
  intro _
  simp [encode, Wire.bytes, wordFrame, addressed, SdoFrame.bytes, rowOf, matchesRow]

theorem TableRow.sdoAbort (a : Half) (b : Byte) (c : Word) : TableRow.Statement (.sdoAbort a b c) := by
  intro _
  simp [encode, Wire.bytes, wordFrame, addressed, SdoFrame.bytes, rowOf, matchesRow]

theorem TableRow.sdoWrAck (a : Byte) (b : Half) (c : Byte) (d : Word) : TableRow.Statement (.sdoWrAck a b c d) := by
  intro h
  have ha : a = 0x60#8 := by
    by_contra hn
    by_cases h8 : a = 0x80#8 <;> simp [WellFormed, checkInstr, WireCtx.table, hn, h8] at h
  subst ha
  simp [encode, Wire.bytes, wordFrame, addressed, SdoFrame.bytes, rowOf, matchesRow]

theorem TableRow.uartRdReq (a : Half) (b c : Byte) : TableRow.Statement (.uartRdReq a b c) := by
  intro _
  simp [encode, Wire.bytes, rdReqFrame, addressed, UartFrame.bytes, SdoFrame.bytes, rowOf, matchesRow, syncByteValue]

theorem TableRow.uartWr1Req (a : Half) (b c d : Byte) : TableRow.Statement (.uartWr1Req a b c d) := by
  intro _
  simp [encode, Wire.bytes, wr1ReqFrame, addressed, UartFrame.bytes, SdoFrame.bytes, rowOf, matchesRow, syncByteValue]

theorem TableRow.uartWr2Req (a : Half) (b : Byte) (c : Half) (d : Byte) : TableRow.Statement (.uartWr2Req a b c d) := by
  intro _
  simp [encode, Wire.bytes, wr2ReqFrame, addressed, UartFrame.bytes, SdoFrame.bytes, rowOf, matchesRow, syncByteValue]

theorem TableRow.uartWr4Req (a : Half) (b : Byte) (c : Word) (d : Byte) : TableRow.Statement (.uartWr4Req a b c d) := by
  intro _
  simp [encode, Wire.bytes, wordFrame, addressed, UartFrame.bytes, SdoFrame.bytes, rowOf, matchesRow, syncByteValue]

theorem TableRow.uartRdRsp (a b c d : Byte) (e : Word) (f : Byte) : TableRow.Statement (.uartRdRsp a b c d e f) := by
  intro h
  have ha : a = 0x43#8 := by
    by_contra hn
    simp [WellFormed, checkInstr, WireCtx.table, hn] at h
  have hb : b = 0x63#8 := by
    by_contra hn
    simp [WellFormed, checkInstr, WireCtx.table, ha, hn] at h
  subst ha
  subst hb
  simp [encode, Wire.bytes, uartRspFrame, UartFrame.bytes, SdoFrame.bytes, rowOf, matchesRow, syncByteValue]

theorem TableRow.canReqId (n : BitVec 7) : TableRow.Statement (.canReqId n) := by
  intro _
  simp [encode, Wire.bytes, rowOf, matchesRow, reqId_bytes]

theorem TableRow.canRspId (n : BitVec 7) : TableRow.Statement (.canRspId n) := by
  intro _
  simp [encode, Wire.bytes, rowOf, matchesRow, rspId_bytes]

end Sys2Proof.Laws
end

