-- ==== Sys2Proof/Tests/Slice0.lean ====
section
/-! SUPPORT. The model's own tests: the well-formedness smoke, every constructor's decoding from a word written out from
the spec's encoding, one-step tests whose expected values are the spec's, and for every statement with hypotheses a
witness that meets them. The fixture is `OD_TEST` with WACK 0x60 and infinite queues (95_test_vectors.md). -/

namespace Sys2Proof.Tests

open Sys2Proof.Machine Sys2Proof.HostSide Sys2Proof.Claims

/-! ### The fixture -/

/-- `OD_TEST` (40_object_dictionary.md R127). -/
def odTest : OdTable where
  controlWord := ⟨0x6040#16, 0#8, 2#3⟩
  statusWord := ⟨0x6041#16, 0#8, 2#3⟩
  operationMode := ⟨0x6060#16, 0#8, 1#3⟩
  actualPosition := ⟨0x6063#16, 0#8, 4#3⟩
  targetPosition := ⟨0x607A#16, 0#8, 4#3⟩
  actualSpeed := ⟨0x606C#16, 0#8, 4#3⟩
  targetSpeed := ⟨0x6081#16, 0#8, 4#3⟩
  actualCurrent := ⟨0x6078#16, 0#8, 2#3⟩
  targetCurrent := ⟨0x6071#16, 0#8, 2#3⟩
  currentLimit := ⟨0x6073#16, 0#8, 2#3⟩
  posSoftLimit := ⟨0x607D#16, 1#8, 4#3⟩
  negSoftLimit := ⟨0x607D#16, 2#8, 4#3⟩
  speedLimit := ⟨0x607F#16, 0#8, 4#3⟩
  errorCodeLow := ⟨0x2601#16, 0#8, 2#3⟩
  errorCodeHigh := ⟨0x2602#16, 0#8, 2#3⟩

/-- The fixture's parameters. -/
def fixture : Params := ⟨odTest, 0x60#8, 200#32, 0#16, none, none⟩

/-- After reset. -/
def closed : State := State.resetOf fixture

/-- Open on CAN with NODEID 1. -/
def onCan : State := { closed with isOpen := true, nodeId := 1#7 }

/-- Open on UART. -/
def onUart : State := { closed with isOpen := true, tsel := .uart, tselAct := .uart }

/-- A command has been accepted. -/
def issue (s : State) (w : Word) : State := accept w s

/-- A command's first step awaits its response. -/
def await (s : State) (w : Word) : State := { accept w s with phase := .wait, armed := true }

/-- A frame of data length code 8 waits in CRXQ. -/
def queued (f : SdoFrame) (s : State) : State := { s with crxq := [⟨8#4, f⟩] }

/-- A frame of eight bytes, and the frame of a position read response. -/
def posResponse : SdoFrame := ⟨0x43#8, 0x63#8, 0x60#8, 0x00#8, 0x00#8, 0xC0#8, 0x45#8, 0x00#8⟩

/-- The valid UART frame of 43_framed_codec.md R197. -/
def posFrame : UartFrame := ⟨0x7F#8, posResponse, 0x76#8⟩

/-- What a test looks at in an outcome. -/
def look {α : Type} (f : State → α) : Result → Option α
  | .next s => some (f s)
  | .fault _ => none
  | .refused _ => none

/-! ### Well-formedness smoke -/

theorem test_wf_accepts_right_checksum : WellFormed WireCtx.table (.uartRdReq 0x6063#16 0#8 0x7E#8) := by decide

theorem test_wf_badChecksum_read : checkInstr WireCtx.table (.uartRdReq 0x6063#16 0#8 0x7F#8) = some .badChecksum := by
  decide

theorem test_wf_badChecksum_write :
    checkInstr WireCtx.table (.uartWr4Req 0x607A#16 0#8 4571136#32 0x7E#8) = some .badChecksum := by decide

theorem test_wf_ackIsAbort : checkInstr WireCtx.table (.sdoWrAck 0x80#8 0x607A#16 0#8 0#32) = some .ackIsAbort := by decide

theorem test_wf_notWack : checkInstr WireCtx.table (.sdoWrAck 0x61#8 0x607A#16 0#8 0#32) = some .notWack := by decide

theorem test_wf_wrongMark0 :
    checkInstr WireCtx.table (.uartRdRsp 0x4B#8 0x63#8 0x60#8 0#8 0#32 0#8) = some .wrongMark0 := by decide

theorem test_wf_wrongMark1 :
    checkInstr WireCtx.table (.uartRdRsp 0x43#8 0x64#8 0x60#8 0#8 0#32 0#8) = some .wrongMark1 := by decide

/-! ### Decoding, one word for every constructor (R80, R86 to R96 and the examples there; 95_test_vectors.md part 2) -/

theorem test_decode_OPEN : decodeCommand 0x00000001#32 = .ok (.openConn 0#8 0#8) := by decide
theorem test_decode_CLOSE : decodeCommand 0x00000002#32 = .ok (.closeConn 0#8 0#8) := by decide
theorem test_decode_READ : decodeCommand 0x00000310#32 = .ok (.read 3#8 0#8) := by decide
theorem test_decode_WRITE : decodeCommand 0x00040511#32 = .ok (.write 5#8 4#8) := by decide
theorem test_decode_RESET_ERROR : decodeCommand 0x00000020#32 = .ok (.resetError 0#8 0#8) := by decide
theorem test_decode_QUICK_STOP : decodeCommand 0x00000021#32 = .ok (.quickStop 0#8 0#8) := by decide
theorem test_decode_START_MOVE : decodeCommand 0x00000022#32 = .ok (.startMove 0#8 0#8) := by decide
theorem test_decode_SET_TARGET_POSITION : decodeCommand 0x00000023#32 = .ok (.setTargetPosition 0#8 0#8) := by decide
theorem test_decode_SET_TRAPEZOID_SPEED : decodeCommand 0x00000024#32 = .ok (.setTrapezoidSpeed 0#8 0#8) := by decide
theorem test_decode_SET_POS_SPEED : decodeCommand 0xAB070925#32 = .ok (.setPosSpeed 9#8 7#8) := by decide

theorem test_decode_RD_REQ : decodeRequest ⟨0x40#8, 0x63#8, 0x60#8, 0x00#8, 0x00#8, 0x00#8, 0x00#8, 0x00#8⟩ =
    .ok (.sdoRdReq 0x6063#16 0#8) := by decide
theorem test_decode_WR1_REQ : decodeRequest ⟨0x2F#8, 0x60#8, 0x60#8, 0x00#8, 0x01#8, 0x00#8, 0x00#8, 0x00#8⟩ =
    .ok (.sdoWr1Req 0x6060#16 0#8 1#8) := by decide
theorem test_decode_WR2_REQ : decodeRequest ⟨0x2B#8, 0x40#8, 0x60#8, 0x00#8, 0x3F#8, 0x00#8, 0x00#8, 0x00#8⟩ =
    .ok (.sdoWr2Req 0x6040#16 0#8 0x003F#16) := by decide
theorem test_decode_WR4_REQ : decodeRequest ⟨0x23#8, 0x7A#8, 0x60#8, 0x00#8, 0x00#8, 0xC0#8, 0x45#8, 0x00#8⟩ =
    .ok (.sdoWr4Req 0x607A#16 0#8 4571136#32) := by decide
theorem test_decode_RD1_RSP : decodeReadResponse ⟨0x4F#8, 0x63#8, 0x60#8, 0x00#8, 0xAB#8, 0x00#8, 0x00#8, 0x00#8⟩ =
    .ok (.sdoRd1Rsp 0x6063#16 0#8 0xAB#8 0#24) := by decide
theorem test_decode_RD2_RSP : decodeReadResponse ⟨0x4B#8, 0x63#8, 0x60#8, 0x00#8, 0x34#8, 0x12#8, 0xFF#8, 0xFF#8⟩ =
    .ok (.sdoRd2Rsp 0x6063#16 0#8 0x1234#16 0xFFFF#16) := by decide
theorem test_decode_RD4_RSP : decodeReadResponse ⟨0x43#8, 0x63#8, 0x60#8, 0x00#8, 0x18#8, 0xFC#8, 0xFF#8, 0xFF#8⟩ =
    .ok (.sdoRd4Rsp 0x6063#16 0#8 0xFFFFFC18#32) := by decide
theorem test_decode_ABORT : decodeReadResponse ⟨0x80#8, 0x63#8, 0x60#8, 0x00#8, 0x11#8, 0x00#8, 0x09#8, 0x06#8⟩ =
    .ok (.sdoAbort 0x6063#16 0#8 0x06090011#32) := by decide
theorem test_decode_WR_ACK :
    decodeWriteResponse 0x60#8 ⟨0x60#8, 0x7A#8, 0x60#8, 0x00#8, 0x00#8, 0x00#8, 0x00#8, 0x00#8⟩ =
      .ok (.sdoWrAck 0x60#8 0x607A#16 0#8 0#32) := by decide

theorem test_decode_UART_RD_REQ :
    decodeUartRequest ⟨0x7F#8, ⟨0x40#8, 0x63#8, 0x60#8, 0x00#8, 0x00#8, 0x00#8, 0x00#8, 0x00#8⟩, 0x7E#8⟩ =
      .ok (.uartRdReq 0x6063#16 0#8 0x7E#8) := by decide
theorem test_decode_UART_WR1_REQ :
    decodeUartRequest ⟨0x7F#8, ⟨0x2F#8, 0x60#8, 0x60#8, 0x00#8, 0x01#8, 0x00#8, 0x00#8, 0x00#8⟩, 0x91#8⟩ =
      .ok (.uartWr1Req 0x6060#16 0#8 1#8 0x91#8) := by decide
theorem test_decode_UART_WR2_REQ :
    decodeUartRequest ⟨0x7F#8, ⟨0x2B#8, 0x40#8, 0x60#8, 0x00#8, 0x3F#8, 0x00#8, 0x00#8, 0x00#8⟩, 0x77#8⟩ =
      .ok (.uartWr2Req 0x6040#16 0#8 0x3F#16 0x77#8) := by decide
theorem test_decode_UART_WR4_REQ :
    decodeUartRequest ⟨0x7F#8, ⟨0x23#8, 0x7A#8, 0x60#8, 0x00#8, 0x00#8, 0xC0#8, 0x45#8, 0x00#8⟩, 0x7F#8⟩ =
      .ok (.uartWr4Req 0x607A#16 0#8 4571136#32 0x7F#8) := by decide
theorem test_decode_UART_RD_RSP : decodeUartResponse 0x43#8 0x63#8 posFrame =
    .ok (.uartRdRsp 0x43#8 0x63#8 0x60#8 0#8 4571136#32 0x76#8) := by decide
theorem test_decode_CAN_REQ_ID : decodeCanId 0x67F#11 = .ok (.canReqId 127#7) := by decide
theorem test_decode_CAN_RSP_ID : decodeCanId 0x581#11 = .ok (.canRspId 1#7) := by decide

theorem test_table_word_command : decodeTableWord 32 0x00040511 = some (.write 5#8 4#8) := by decide
theorem test_table_word_identifier : decodeTableWord 16 0x601 = some (.canReqId 1#7) := by decide
theorem test_table_word_frame : decodeTableWord 64 0x0045C000_00607A_23 = some (.sdoWr4Req 0x607A#16 0#8 4571136#32) := by
  decide

/-! ### Rejections, by name -/

theorem test_reject_zero_command : decodeCommand 0#32 = .error (.reservedOp 0#8) := by decide
theorem test_reject_command_26 : decodeCommand 0x00000026#32 = .error (.reservedOp 0x26#8) := by decide
theorem test_reject_request_class : decodeRequest posResponse = .error (.notARequest 0x43#8) := by decide
theorem test_reject_padding :
    decodeRequest ⟨0x2F#8, 0x60#8, 0x60#8, 0x00#8, 0x01#8, 0x01#8, 0x00#8, 0x00#8⟩ = .error .nonzeroPadding := by decide
theorem test_reject_ack_of_read :
    decodeReadResponse ⟨0x60#8, 0x63#8, 0x60#8, 0#8, 0#8, 0#8, 0#8, 0#8⟩ = .error (.unexpectedClass 0x60#8) := by decide
theorem test_reject_value_of_write : decodeWriteResponse 0x60#8 posResponse = .error (.unexpectedClass 0x43#8) := by decide
theorem test_reject_sync : decodeUartRequest { posFrame with sync := 0x7E#8 } = .error (.notSync 0x7E#8) := by decide
theorem test_reject_markers : decodeUartResponse 0x4B#8 0x63#8 posFrame = .error (.markerMismatch 0x43#8 0x63#8) := by
  decide
theorem test_reject_identifier : decodeCanId 0x701#11 = .error (.foreignId 0x701#11) := by decide
theorem test_reject_length : decodeBytes WireCtx.table .uart10 [0x7F#8] = .error (.wrongLength 1) := by decide

/-! ### One step, with the spec's expected values -/

-- R218, R219: STATUS 0x1A after OPEN with CTRL = 1, 0x12 after CLOSE.
theorem test_open_status : look statusWord (step (issue { closed with tsel := .uart } 0x01#32)) = some 0x1A#32 := by decide
theorem test_close_status : look statusWord (step (issue onUart 0x02#32)) = some 0x12#32 := by decide

-- R216: READ ACTUAL_POSITION.
theorem test_read_can : look (fun s => s.ctx) (step (issue onCan 0x310#32)) =
    some [⟨0x601#11, 8#4, ⟨0x40#8, 0x63#8, 0x60#8, 0#8, 0#8, 0#8, 0#8, 0#8⟩⟩] := by decide
theorem test_read_uart : look (fun s => s.utx) (step (issue onUart 0x310#32)) =
    some [0x7F#8, 0x40#8, 0x63#8, 0x60#8, 0x00#8, 0x00#8, 0x00#8, 0x00#8, 0x00#8, 0x7E#8] := by decide

-- R217: WRITE TARGET_POSITION, 4571136, 4.
theorem test_write_can : look (fun s => s.ctx) (step (issue { onCan with arg0 := 4571136#32 } 0x40411#32)) =
    some [⟨0x601#11, 8#4, ⟨0x23#8, 0x7A#8, 0x60#8, 0#8, 0x00#8, 0xC0#8, 0x45#8, 0x00#8⟩⟩] := by decide
theorem test_write_uart_truncates : look (fun s => s.utx) (step (issue { onUart with arg0 := 0x12345678#32 } 0x10411#32)) =
    some [0x7F#8, 0x2F#8, 0x7A#8, 0x60#8, 0x00#8, 0x78#8, 0x00#8, 0x00#8, 0x00#8, 0x00#8] := by decide

-- R232, R233: the UART frames of RESET_ERROR and QUICK_STOP.
theorem test_reset_error_uart : look (fun s => s.utx) (step (issue onUart 0x20#32)) =
    some [0x7F#8, 0x2B#8, 0x40#8, 0x60#8, 0x00#8, 0x86#8, 0x00#8, 0x00#8, 0x00#8, 0x30#8] := by decide
theorem test_quick_stop_uart : look (fun s => s.utx) (step (issue onUart 0x21#32)) =
    some [0x7F#8, 0x2B#8, 0x40#8, 0x60#8, 0x00#8, 0x0B#8, 0x00#8, 0x00#8, 0x00#8, 0xAB#8] := by decide

-- R234: START_MOVE step 1; R236, R237: the frames of SET_TARGET_POSITION and SET_TRAPEZOID_SPEED.
theorem test_start_move_mode : look (fun s => s.ctx) (step { issue onCan 0x22#32 with seq := 1#2 }) =
    some [⟨0x601#11, 8#4, ⟨0x2F#8, 0x60#8, 0x60#8, 0#8, 0x01#8, 0#8, 0#8, 0#8⟩⟩] := by decide
theorem test_set_target_position_negative : look (fun s => s.ctx)
    (step (issue { onCan with arg0 := 0xFFFFFC18#32 } 0x23#32)) =
      some [⟨0x601#11, 8#4, ⟨0x23#8, 0x7A#8, 0x60#8, 0#8, 0x18#8, 0xFC#8, 0xFF#8, 0xFF#8⟩⟩] := by decide
theorem test_set_trapezoid_speed : look (fun s => s.utx) (step (issue { onUart with arg0 := 0x001B4E82#32 } 0x24#32)) =
    some [0x7F#8, 0x23#8, 0x81#8, 0x60#8, 0x00#8, 0x82#8, 0x4E#8, 0x1B#8, 0x00#8, 0x92#8] := by decide

-- R239: SET_POS_SPEED step 2 sends ARG1, step 3 the closing control word.
theorem test_set_pos_speed_speed : look (fun s => s.ctx)
    (step { issue { onCan with arg0 := 4571136#32, arg1 := 0x001B4E82#32 } 0x25#32 with seq := 2#2 }) =
      some [⟨0x601#11, 8#4, ⟨0x23#8, 0x81#8, 0x60#8, 0#8, 0x82#8, 0x4E#8, 0x1B#8, 0x00#8⟩⟩] := by decide
theorem test_set_pos_speed_last : look (fun s => s.phase) (step { issue onUart 0x25#32 with seq := 3#2 }) = some .idle := by
  decide

-- R83 a, R277, R292 g, h: a reserved OP is UsageError even when closed; a READ when closed is NotConnected.
theorem test_reserved_op_closed : look statusWord (step (issue closed 0x99#32)) = some 0x506#32 := by decide
theorem test_read_closed : look statusWord (step (issue closed 0x310#32)) = some 0x606#32 := by decide

-- R86 to R89: the request frames on CAN.
theorem test_sdo_rd_req : look (fun s => s.phase) (exec (.sdoRdReq 0x6063#16 0#8) (issue onCan 0x310#32)) = some .wait := by
  decide
theorem test_sdo_wr1_req : look (fun s => s.ctx.map (·.data)) (exec (.sdoWr1Req 0x6060#16 0#8 1#8) (issue onCan 0x11#32)) =
    some [⟨0x2F#8, 0x60#8, 0x60#8, 0x00#8, 0x01#8, 0x00#8, 0x00#8, 0x00#8⟩] := by decide
theorem test_sdo_wr2_req : look (fun s => s.ctx.map (·.data)) (exec (.sdoWr2Req 0x6040#16 0#8 0x3F#16) (issue onCan 0x11#32)) =
    some [⟨0x2B#8, 0x40#8, 0x60#8, 0x00#8, 0x3F#8, 0x00#8, 0x00#8, 0x00#8⟩] := by decide
theorem test_sdo_wr4_req : look (fun s => s.utx) (exec (.sdoWr4Req 0x607A#16 0#8 4571136#32) (issue onUart 0x11#32)) =
    some [0x7F#8, 0x23#8, 0x7A#8, 0x60#8, 0x00#8, 0x00#8, 0xC0#8, 0x45#8, 0x00#8, 0x7F#8] := by decide

-- R166, R167, R170, R292: the responses on CAN.
theorem test_rd1_value : look (fun s => s.result)
    (step (queued ⟨0x4F#8, 0x63#8, 0x60#8, 0#8, 0xAB#8, 0xFF#8, 0xFF#8, 0xFF#8⟩ (await onCan 0x310#32))) =
      some 0xAB#32 := by decide
theorem test_rd2_value : look (fun s => s.result)
    (step (queued ⟨0x4B#8, 0x63#8, 0x60#8, 0#8, 0x34#8, 0x12#8, 0xFF#8, 0xFF#8⟩ (await onCan 0x310#32))) =
      some 0x1234#32 := by decide
theorem test_rd4_value : look (fun s => (s.result, statusWord s)) (step (queued posResponse (await onCan 0x310#32))) =
    some (0x0045C000#32, 0x0A#32) := by decide
theorem test_abort_status : look (fun s => (s.abortCode, statusWord s))
    (step (queued ⟨0x80#8, 0x63#8, 0x60#8, 0#8, 0x11#8, 0x00#8, 0x09#8, 0x06#8⟩ (await onCan 0x310#32))) =
      some (0x06090011#32, 0x40E#32) := by decide
theorem test_ack_of_write : look statusWord
    (step (queued ⟨0x60#8, 0x7A#8, 0x60#8, 0#8, 0#8, 0#8, 0#8, 0#8⟩ (await onCan 0x40411#32))) = some 0x0A#32 := by decide
theorem test_ack_of_read : look statusWord
    (step (queued ⟨0x60#8, 0x63#8, 0x60#8, 0#8, 0#8, 0#8, 0#8, 0#8⟩ (await onCan 0x310#32))) = some 0x20E#32 := by decide
theorem test_short_frame : look statusWord (step { await onCan 0x310#32 with crxq := [⟨4#4, posResponse⟩] }) =
    some 0x20E#32 := by decide
theorem test_timeout_status : look statusWord (step { await onCan 0x310#32 with texp := true }) = some 0x10E#32 := by decide

-- R183: the UART request frames; R192, R292 f: the UART response.
theorem test_uart_rd_req : look (fun s => s.utx) (exec (.uartRdReq 0x607D#16 1#8 0x63#8) (issue onUart 0xA10#32)) =
    some [0x7F#8, 0x40#8, 0x7D#8, 0x60#8, 0x01#8, 0x00#8, 0x00#8, 0x00#8, 0x00#8, 0x63#8] := by decide
theorem test_uart_wr1_req : look (fun s => s.utx) (exec (.uartWr1Req 0x6060#16 0#8 1#8 0x91#8) (issue onUart 0x11#32)) =
    some [0x7F#8, 0x2F#8, 0x60#8, 0x60#8, 0x00#8, 0x01#8, 0x00#8, 0x00#8, 0x00#8, 0x91#8] := by decide
theorem test_uart_wr2_req : look (fun s => s.phase) (exec (.uartWr2Req 0x6040#16 0#8 0x3F#16 0x77#8) (issue onUart 0x11#32)) =
    some .idle := by decide
theorem test_uart_wr4_req_on_can : look (fun s => (s.utx, s.phase))
    (exec (.uartWr4Req 0x607A#16 0#8 4571136#32 0x7F#8) (issue onCan 0x11#32)) = some ([], .issue) := by decide
theorem test_uart_value : look (fun s => (s.result, statusWord s))
    (step { await onUart 0x310#32 with rxBuf := posFrame, rxCnt := 9, urxq := [0x76#8] }) =
      some (0x0045C000#32, 0x1A#32) := by decide
theorem test_uart_checksum : look (fun s => (s.result, statusWord s))
    (step { await onUart 0x310#32 with rxBuf := posFrame, rxCnt := 9, urxq := [0x75#8] }) =
      some (0#32, 0x31E#32) := by decide

-- R132, R134, R292 e: the identifiers.
theorem test_can_req_id : look (fun s => s.ctx.map (·.id))
    (exec (.canReqId 127#7) (issue { onCan with nodeId := 127#7 } 0x310#32)) = some [0x67F#11] := by decide
-- R52: the frame is the current step's, not what TXBUF holds from before.
theorem test_can_req_id_frame : look (fun s => s.ctx.map (·.data))
    (exec (.canReqId 1#7) (issue { onCan with txBuf := posFrame } 0x310#32)) =
      some [⟨0x40#8, 0x63#8, 0x60#8, 0x00#8, 0x00#8, 0x00#8, 0x00#8, 0x00#8⟩] := by decide
theorem test_can_rsp_id_accepted : look (fun s => s.crxq)
    (step { onCan with schedule := [.canRx ⟨.std 0x581#11, false, 4#4, posResponse⟩] }) =
      some [⟨4#4, ⟨0x43#8, 0x63#8, 0x60#8, 0#8, 0#8, 0#8, 0#8, 0#8⟩⟩] := by decide
theorem test_can_rsp_id_other_node : look (fun s => s.crxq)
    (step { onCan with schedule := [.canRx ⟨.std 0x582#11, false, 8#4, posResponse⟩] }) = some [] := by decide

-- R20, R46: ODPEEK of selector 3 after READ ACTUAL_POSITION was accepted.
theorem test_odpeek : hostRead 0x2C (issue onCan 0x310#32) = 0x04006063#32 := by decide

/-! ### The host's calling sequence (R210, R250, R252, R314) -/

-- The second command is not written while the first has DONE = 0; an answered READ ends with its RESULT.
theorem test_host_waits_for_done :
    runLines [.read .actualPosition, .quickStop] onCan = runLines [.read .actualPosition] onCan := by decide
theorem test_host_reads_after_done : (runLines [.read .actualPosition, .env (.can 0x581#11 8#4 posResponse)] onCan).outcome =
    some (.ok 0x0045C000#32) := by decide
theorem test_no_outcome_before_done : hostOutcome closed = none ∧ hostOutcome (await onCan 0x310#32) = none := by decide
-- R251: the calibration set is TSEL_ACT's, whatever CTRL.TSEL says.
theorem test_calibration_of_opened_transport : openedTransport { onCan with tsel := .uart } = .can ∧
    openedTransport { onUart with tsel := .can } = .uart := by decide
-- On UART a speed read leaves UMARK as it was.
theorem test_markers_restored : (readLines .uart odTest 0x6343#32 .actualSpeed 0x43#8 []) =
    [.set .umark 0x6C43#32, .read .actualSpeed, .set .umark 0x6343#32] := by decide

/-! ### Witnesses: concrete states and operands that meet the hypotheses of the statements, each clause at a boundary -/

/-- A read step on UART in its body read meets the invariant. -/
theorem inv_body : Inv { await onUart 0x310#32 with rxBuf := posFrame, rxCnt := 9, urxq := [0x76#8] } where
  status := ⟨by decide, by decide, by decide, by decide, by decide, by decide, by decide, by decide⟩
  engine := ⟨by decide, by decide, by decide, by decide, by decide, fun _ _ => ⟨3#8, by decide⟩, by decide, by decide,
    by decide, by decide⟩
  queues := ⟨by decide, by decide, by decide, by decide, fun _ h => (nomatch h), fun _ h => (nomatch h), by decide⟩

/-- A command about to run on CAN meets the invariant. -/
theorem inv_issue : Inv (issue { onCan with timeout := 0#32 } 0x310#32) where
  status := ⟨by decide, by decide, by decide, by decide, by decide, by decide, by decide, by decide⟩
  engine := ⟨by decide, by decide, by decide, by decide, by decide, fun h => (nomatch h), by decide, by decide, by decide,
    by decide⟩
  queues := ⟨by decide, by decide, by decide, by decide, fun _ h => (nomatch h), fun _ h => (nomatch h), by decide⟩

/-- A read step on CAN with a queued response meets the invariant. -/
theorem inv_wait : Inv (queued posResponse (await onCan 0x310#32)) where
  status := ⟨by decide, by decide, by decide, by decide, by decide, by decide, by decide, by decide⟩
  engine := ⟨by decide, by decide, by decide, by decide, by decide, fun _ h => (nomatch h), by decide, by decide,
    by decide, by decide⟩
  queues := ⟨by decide, by decide, by decide, by decide, fun _ h => (nomatch h), fun _ h => (nomatch h), by decide⟩

theorem witness_DecodeOfEncode :
    WellFormed WireCtx.table (.sdoWrAck 0x60#8 0xFFFF#16 0xFF#8 0#32) ∧
      WellFormed WireCtx.table (.uartRdReq 0x6063#16 0#8 0x7E#8) ∧
      WellFormed WireCtx.table (.uartRdRsp 0x43#8 0x63#8 0#8 0#8 0#32 0#8) := by decide

theorem witness_DecodingKeepsEveryBit :
    decode WireCtx.table (.command 0xFF000310#32) = .ok (.read 3#8 0#8) ∧
      decode WireCtx.table (.writeResponse posFrame.body) = .error (.unexpectedClass 0x43#8) ∧
      decode WireCtx.table (.uartResponse posFrame) = .ok (.uartRdRsp 0x43#8 0x63#8 0x60#8 0#8 4571136#32 0x76#8) := by
  decide

theorem witness_ReservedHostEncodings :
    (closed.busy = false ∧ closed.schedule = [] ∧ ¬ DefinedOp (byteAt 0x00000000#32 0) ∧
      ¬ DefinedOp (byteAt 0x00000026#32 0) ∧ ¬ DefinedOp (byteAt 0x000000FF#32 0)) ∧
    (Issuing .can (issue onCan 0xF10#32) ∧ (issue onCan 0xF10#32).seq = 0#2 ∧ 15 ≤ (15#8).toNat ∧ 15 ≤ (255#8).toNat) ∧
    (Issuing .uart (issue onUart 0x30E11#32) ∧ (14#8).toNat < 15 ∧ ∀ l ∈ [0#8, 3#8, 5#8, 255#8],
      l ≠ 1#8 ∧ l ≠ 2#8 ∧ l ≠ 4#8) := by
  unfold DefinedOp Issuing
  decide

theorem witness_LrcDetectsEveryOneByteChange :
    (List.replicate 9 0xFF#8).length = 9 ∧ lrcOk posFrame = true ∧ posFrame.bytes[0]? ≠ some 0#8 ∧
      posFrame.bytes[9]? ≠ some 0#8 ∧ List.Perm posFrame.bytes posFrame.bytes :=
  ⟨by decide, by decide, by decide, by decide, List.Perm.refl _⟩

theorem witness_DetectorTakesTheFirstFrame_noGarbage :
    let s : State := { await onUart 0x310#32 with urxq := [] ++ posFrame.bytes ++ [0xAA#8] }
    s.schedule = [] ∧ Awaiting .uart s ∧ ReadStep s ∧ s.syncW = [] ∧ s.rxCnt = 0 ∧ posFrame.sync = 0x7F#8 ∧
      posFrame.body.cmd = s.umark0 ∧ posFrame.body.indexLo = s.umark1 ∧ lrcOk posFrame = true ∧
      ∀ p, p < ([] : List Byte).length → ¬ MatchAt s ([] ++ posFrame.bytes) p := by
  unfold Awaiting ReadStep MatchAt
  decide

-- 43_framed_codec.md R197 b: a stray sync byte directly before the frame; here with a wrong checksum.
theorem witness_DetectorTakesTheFirstFrame_straySync :
    let u : UartFrame := { posFrame with check := 0x75#8 }
    let s : State := { await onUart 0x310#32 with urxq := [0x7F#8] ++ u.bytes ++ [] }
    s.schedule = [] ∧ Awaiting .uart s ∧ ReadStep s ∧ s.syncW = [] ∧ s.rxCnt = 0 ∧ u.sync = 0x7F#8 ∧
      u.body.cmd = s.umark0 ∧ u.body.indexLo = s.umark1 ∧ lrcOk u = false ∧
      ∀ p, p < [0x7F#8].length → ¬ MatchAt s ([0x7F#8] ++ u.bytes) p := by
  unfold Awaiting ReadStep MatchAt
  decide

theorem witness_GarbageEndsInTimeout :
    let s : State := { await onUart 0x310#32 with texp := true, urxq := [] }
    s.schedule = [] ∧ Awaiting .uart s ∧ ReadStep s ∧ s.syncW = [] ∧ s.rxCnt = 0 ∧ s.texp = true ∧
      ∀ p, ¬ MatchAt s s.urxq p := by
  refine ⟨rfl, ⟨rfl, rfl⟩, ⟨by decide, rfl⟩, rfl, rfl, rfl, fun p h => ?_⟩
  exact absurd h.1 (by simp)

theorem witness_GarbageEndsInTimeout_nearHeader :
    let s : State := { await onUart 0x310#32 with texp := true, urxq := [0x7F#8, 0x43#8] }
    s.schedule = [] ∧ Awaiting .uart s ∧ ReadStep s ∧ s.texp = true ∧ ∀ p, ¬ MatchAt s s.urxq p := by
  refine ⟨rfl, ⟨rfl, rfl⟩, ⟨by decide, rfl⟩, rfl, fun p h => ?_⟩
  exact absurd h.2.2 (by simp)

theorem witness_TruncatedFrameEndsInTimeout :
    let s : State := { await onUart 0x310#32 with texp := true, rxCnt := 3, urxq := [0#8, 0#8, 0#8, 0#8, 0#8, 0#8] }
    let s' : State := { await onUart 0x310#32 with texp := true, rxCnt := 9 }
    (s.schedule = [] ∧ Awaiting .uart s ∧ ReadStep s ∧ s.texp = true ∧ 3 ≤ s.rxCnt ∧ s.rxCnt + s.urxq.length < 10) ∧
      (s'.schedule = [] ∧ Awaiting .uart s' ∧ ReadStep s' ∧ 3 ≤ s'.rxCnt ∧ s'.rxCnt + s'.urxq.length < 10) := by
  unfold Awaiting ReadStep
  decide

theorem witness_StepRunsFetchedInstruction :
    ((issue onCan 0x310#32).schedule = [] ∧ (issue onCan 0x310#32).phase = .issue ∧
      decodeCommand (issue onCan 0x310#32).cmd = .ok (.read 3#8 0#8)) ∧
    (let s := queued posResponse (await onCan 0x310#32);
      s.schedule = [] ∧ Awaiting .can s ∧ HeadFrame posResponse s ∧ ReadStep s ∧
        decodeReadResponse posResponse = .ok (.sdoRd4Rsp 0x6063#16 0#8 4571136#32)) ∧
    (let f : SdoFrame := ⟨0x60#8, 0x40#8, 0x60#8, 0#8, 0#8, 0#8, 0#8, 0#8⟩;
      let s : State := { queued f (await onCan 0x25#32) with seq := 3#2 };
      s.schedule = [] ∧ Awaiting .can s ∧ HeadFrame f s ∧ WriteStep s ∧
        decodeWriteResponse s.cfg.wack f = .ok (.sdoWrAck 0x60#8 0x6040#16 0#8 0#32)) ∧
    (let s : State := { await onUart 0x310#32 with rxBuf := posFrame, rxCnt := 9, urxq := [0x76#8] };
      s.schedule = [] ∧ Awaiting .uart s ∧ s.urxq.head? = some 0x76#8 ∧ 9 ≤ s.rxCnt ∧
        decodeUartResponse s.umark0 s.umark1 (s.rxBuf.setByte 9 0x76#8) =
          .ok (.uartRdRsp 0x43#8 0x63#8 0x60#8 0#8 4571136#32 0x76#8)) ∧
    decodeResponseId 0x5FF#11 = .ok (.canRspId 127#7) := by
  unfold Awaiting ReadStep WriteStep HeadFrame
  decide

theorem witness_StepRunsFetchedInstruction_events :
    ({ onCan with schedule := [.canRx ⟨.std 0x5FF#11, false, 8#4, posResponse⟩] } : State).schedule.head? =
        some (.canRx ⟨.std 0x5FF#11, false, 8#4, posResponse⟩) ∧
      ({ onCan with schedule := [.engine] } : State).schedule = [.engine] := by decide

theorem witness_StepKeepsInvariant : ∃ s t, Inv s ∧ step s = .next t ∧ t.done = true ∧ t.result = 4571136#32 :=
  ⟨_, _, inv_body, rfl, by decide, by decide⟩

theorem witness_EveryStepHasANextState : ∃ s, Inv s ∧ s.phase = .wait ∧ s.tselAct = .can :=
  ⟨_, inv_wait, by decide, by decide⟩

theorem witness_EveryCommandCompletes : ∃ s, Inv s ∧ s.schedule = [] ∧ s.timeout = 0#32 ∧ s.phase = .issue ∧
    (s.phase = .wait → s.texp = true) :=
  ⟨_, inv_issue, by decide, by decide, by decide, by decide⟩

theorem witness_StepKeepsParameters : ∃ t, step (issue onCan 0x310#32) = .next t ∧ t.phase = .wait := ⟨_, rfl, by decide⟩

theorem witness_OnlyOpenIssueStepsTransmit :
    ∃ t, (issue onUart 0x310#32).schedule.head? ≠ some .reset ∧ step (issue onUart 0x310#32) = .next t ∧
      t.utx ≠ (issue onUart 0x310#32).utx := ⟨_, by decide, rfl, by decide⟩

theorem witness_RefusedRequestsSendNothing :
    (∃ t, (issue onCan 0xF10#32).errKind = none ∧ step (issue onCan 0xF10#32) = .next t ∧
      t.errKind = some .usageError) ∧
    (∃ t, (issue closed 0x310#32).errKind = none ∧ step (issue closed 0x310#32) = .next t ∧
      t.errKind = some .notConnected) :=
  ⟨⟨_, by decide, rfl, by decide⟩, ⟨_, by decide, rfl, by decide⟩⟩

theorem witness_ErrorKindsByTransport :
    (∃ s t, Inv s ∧ s.errKind = none ∧ s.tselAct = .uart ∧ step s = .next t) ∧
      (∃ s t, Inv s ∧ s.errKind = none ∧ s.tselAct = .can ∧ step s = .next t) :=
  ⟨⟨_, _, inv_body, by decide, by decide, rfl⟩, ⟨_, _, inv_wait, by decide, by decide, rfl⟩⟩

theorem witness_ModeTransitions :
    (∃ t, step (issue { closed with tsel := .uart } 0x01#32) = .next t ∧ t.isOpen = true ∧ t.tselAct = .uart) ∧
    (∃ t, step (issue onCan 0x02#32) = .next t ∧ t.isOpen = false ∧ t.busy = false) ∧
    (∃ t, step { onCan with schedule := [.hostWrite 0x14 0x310#32] } = .next t ∧ t.busy = true) :=
  ⟨⟨_, rfl, by decide, by decide⟩, ⟨_, rfl, by decide, by decide⟩, ⟨_, rfl, by decide⟩⟩

theorem witness_StickyFlagsChangeNoOutcome :
    ∀ addr, (issue onCan 0x310#32).schedule.head? ≠ some (.hostRead addr) := fun _ h => nomatch h

theorem witness_EmptyQueueWaitsOrTimesOut :
    (let s := await onCan 0x310#32;
      s.schedule = [] ∧ Awaiting .can s ∧ s.crxq = [] ∧ s.texp = false) ∧
    (let s : State := { await onUart 0x310#32 with texp := true, rxCnt := 9 };
      s.schedule = [] ∧ Awaiting .uart s ∧ s.urxq = [] ∧ s.texp = true) := by
  unfold Awaiting
  decide

theorem witness_WrongLengthIsMalformed :
    let s : State := { await onCan 0x310#32 with crxq := [⟨7#4, posResponse⟩, ⟨9#4, posResponse⟩] }
    s.schedule = [] ∧ Awaiting .can s ∧ s.crxq = ⟨7#4, posResponse⟩ :: [⟨9#4, posResponse⟩] ∧ (7#4 : BitVec 4) ≠ 8#4 ∧
      (9#4 : BitVec 4) ≠ 8#4 := by
  unfold Awaiting
  decide

theorem witness_UnexpectedReadClassIsMalformed :
    let f : SdoFrame := ⟨0x60#8, 0#8, 0#8, 0#8, 0#8, 0#8, 0#8, 0#8⟩
    let s := queued f (await onCan 0x310#32)
    s.schedule = [] ∧ Awaiting .can s ∧ ReadStep s ∧ HeadFrame f s ∧ f.cmd ≠ 0x4F#8 ∧ f.cmd ≠ 0x4B#8 ∧ f.cmd ≠ 0x43#8 ∧
      f.cmd ≠ 0x80#8 := by
  unfold Awaiting ReadStep HeadFrame
  decide

theorem witness_WriteResponsesAreClassified :
    ∀ c ∈ [0x80#8, 0x60#8, 0x43#8],
      let f : SdoFrame := ⟨c, 0#8, 0#8, 0#8, 0#8, 0#8, 0#8, 0#8⟩
      let s : State := { queued f (await onCan 0x22#32) with seq := 2#2 }
      s.schedule = [] ∧ Awaiting .can s ∧ WriteStep s ∧ HeadFrame f s := by
  unfold Awaiting WriteStep HeadFrame
  decide

theorem witness_OpenCompletes_CloseCompletes :
    (issue closed 0x01#32).phase = .issue ∧ (issue onCan 0x02#32).phase = .issue := by decide

theorem witness_ClosedConnectionRaisesNotConnected :
    let s := issue closed 0x310#32
    s.phase = .issue ∧ s.seq = 0#2 ∧ s.isOpen = false ∧ decodeCommand 0x310#32 = .ok (.read 3#8 0#8) ∧
      decodeCommand 0x25#32 = .ok (.setPosSpeed 0#8 0#8) ∧ decodeCommand 0x02#32 = .ok (.closeConn 0#8 0#8) := by decide

theorem witness_ReadSendsTheRequest_WriteSendsTheOperand :
    (issue onCan 0x10#32).seq = 0#2 ∧ Issuing .can (issue onCan 0x10#32) ∧ Issuing .uart (issue onUart 0x10#32) ∧
      (entries (issue onCan 0x10#32).cfg.od)[(0#8).toNat]? = some odTest.controlWord ∧
      (entries (issue onUart 0x10#32).cfg.od)[(14#8).toNat]? = some odTest.errorCodeHigh := by
  unfold Issuing
  decide

theorem witness_motorCommands :
    (hintLen odTest.controlWord = some .two ∧ hintLen odTest.operationMode = some .one ∧
      hintLen odTest.targetPosition = some .four ∧ hintLen odTest.targetSpeed = some .four) ∧
    (∀ k ∈ [0#2, 1#2, 2#2, 3#2], Issuing .can { issue onCan 0x25#32 with seq := k } ∧
      Issuing .uart { issue onUart 0x25#32 with seq := k }) := by
  unfold Issuing
  decide

theorem witness_BadHintRaisesUsageError :
    let bad : Params := { fixture with od := { odTest with operationMode := ⟨0x6060#16, 0#8, 0#3⟩ } }
    let s : State := { issue { onCan with cfg := bad } 0x22#32 with seq := 1#2 }
    s.schedule = [] ∧ Issuing .can s ∧ decodeCommand s.cmd = .ok (.startMove 0#8 0#8) ∧
      (motorWrites s (byteAt s.cmd 0))[s.seq.toNat]? = some (⟨0x6060#16, 0#8, 0#3⟩, 0x01#32) ∧
      hintLen ⟨0x6060#16, 0#8, 0#3⟩ = none := by
  unfold Issuing
  decide

theorem witness_UartMotorCommandsRunToCompletion :
    let s := issue onUart 0x25#32
    byteAt s.cmd 0 = 0x25#8 ∧ motorWrites s 0x25#8 ≠ [] ∧ s.schedule = [] ∧ Issuing .uart s ∧ s.seq = 0#2 ∧
      s.cfg.od.wellFormed = true := by
  unfold Issuing
  decide

theorem witness_CanMotorCommandsRunToCompletion :
    let ack : SdoFrame := ⟨0x60#8, 0#8, 0#8, 0#8, 0#8, 0#8, 0#8, 0#8⟩
    let s : State := { issue onCan 0x22#32 with crxq := [ack, ack, ack].map (fun f => ⟨8#4, f⟩) ++ [⟨0#4, ack⟩] }
    byteAt s.cmd 0 = 0x22#8 ∧ motorWrites s 0x22#8 ≠ [] ∧ s.schedule = [] ∧ Issuing .can s ∧ s.seq = 0#2 ∧
      s.cfg.od.wellFormed = true ∧ s.cfg.wack ≠ 0x80#8 ∧ [ack, ack, ack].length = (motorWrites s 0x22#8).length ∧
      ∀ f ∈ [ack, ack, ack], f.cmd = s.cfg.wack := by
  unfold Issuing
  decide

theorem witness_requestFrames :
    (Issuing .can (issue onCan 0x310#32) ∧ Issuing .uart (issue onUart 0x310#32) ∧
      byteAt (issue onCan 0x310#32).cmd 0 = 0x10#8) ∧
    (Issuing .can (issue onCan 0x11#32) ∧ WriteStep (issue onCan 0x11#32) ∧ Issuing .uart (issue onUart 0x11#32) ∧
      WriteStep (issue onUart 0x11#32)) ∧
    (∀ k ∈ [0#2, 3#2], Issuing .can { issue onCan 0x25#32 with seq := k } ∧ WriteStep { issue onCan 0x25#32 with seq := k } ∧
      Issuing .uart { issue onUart 0x25#32 with seq := k } ∧ WriteStep { issue onUart 0x25#32 with seq := k }) ∧
    (1#7 = (issue onCan 0x11#32).nodeId ∧ 0#7 ≠ (issue onCan 0x11#32).nodeId) := by
  unfold Issuing WriteStep
  decide

theorem witness_RequestIdentifierIsSent :
    (let s := issue onCan 0xE10#32;
      Issuing .can s ∧ ReadStep s ∧ (entries s.cfg.od)[(byteAt s.cmd 1).toNat]? = some odTest.errorCodeHigh ∧
        decodeCommand s.cmd = .ok (.read 14#8 0#8)) ∧
    (let s := issue onCan 0x10011#32;
      Issuing .can s ∧ byteAt s.cmd 0 = 0x11#8 ∧ s.seq = 0#2 ∧ WriteStep s ∧
        (entries s.cfg.od)[(byteAt s.cmd 1).toNat]? = some odTest.controlWord ∧ byteAt s.cmd 2 = lenByte .one) ∧
    (let s : State := { issue onCan 0x25#32 with seq := 3#2 };
      Issuing .can s ∧ WriteStep s ∧ hintLen odTest.controlWord = some .two ∧
        (motorWrites s (byteAt s.cmd 0))[s.seq.toNat]? = some (odTest.controlWord, 0x3F#32)) ∧
    (let s := issue onCan 0x01#32; Issuing .can s ∧ ¬ ReadStep s ∧ ¬ WriteStep s ∧ 1#7 = s.nodeId ∧ 0#7 ≠ s.nodeId) := by
  unfold Issuing ReadStep WriteStep
  decide

theorem witness_responses :
    (Awaiting .can (await onCan 0x310#32) ∧ ReadStep (await onCan 0x310#32)) ∧
      (Awaiting .can (await onCan 0x11#32) ∧ WriteStep (await onCan 0x11#32) ∧
        0x60#8 = (await onCan 0x11#32).cfg.wack) ∧
      (Awaiting .can { await onCan 0x25#32 with seq := 3#2 } ∧ WriteStep { await onCan 0x25#32 with seq := 3#2 }) ∧
      (Awaiting .uart (await onUart 0x310#32) ∧ ReadStep (await onUart 0x310#32)) := by
  unfold Awaiting ReadStep WriteStep
  decide

theorem witness_canReception :
    let f : CanRxFrame := ⟨.std 0x581#11, false, 8#4, posResponse⟩
    let s : State := { onCan with schedule := [.canRx f] }
    let full : State := { s with cfg := { fixture with crxqDepth := some 1 }, crxq := [⟨8#4, posResponse⟩] }
    s.isOpen = true ∧ s.tselAct = .can ∧ f.rtr = false ∧ f.ident = .std (0x580#11 + s.nodeId.setWidth 11) ∧
      Room s.cfg.crxqDepth s.crxq.length ∧ ¬ Room full.cfg.crxqDepth full.crxq.length ∧ onUart.tselAct = .uart := by
  refine ⟨rfl, rfl, rfl, rfl, ?_, fun h => ?_, rfl⟩
  · intro d h
    cases h
  · exact absurd (h 1 rfl) (by decide)

theorem witness_uartReception :
    let s : State := { onUart with schedule := [.uartRx 0#8] }
    let full : State := { s with cfg := { fixture with urxqDepth := some 10 }, urxq := List.replicate 10 0#8 }
    (s.isOpen = true ∧ s.tselAct = .uart) ∧ Room s.cfg.urxqDepth s.urxq.length ∧
      ¬ Room full.cfg.urxqDepth full.urxq.length ∧ ¬ (closed.isOpen = true ∧ closed.tselAct = .uart) := by
  refine ⟨⟨rfl, rfl⟩, ?_, fun h => ?_, by decide⟩
  · intro d h
    cases h
  · exact absurd (h 10 rfl) (by decide)

theorem witness_eventsAtTheHead :
    (∃ s : State, s.schedule = .timerExpire :: [] ∧ s.armed = true ∧ s.texp = false) ∧
      (∃ s : State, s.schedule = .reset :: [] ∧ s.busy = true) ∧
      (∃ s : State, s.schedule = .hostRead 0x20 :: []) :=
  ⟨⟨{ await onCan 0x310#32 with schedule := [.timerExpire] }, by decide⟩,
    ⟨{ await onCan 0x310#32 with schedule := [.reset] }, by decide⟩, ⟨{ closed with schedule := [.hostRead 0x20] }, by decide⟩⟩

theorem witness_hostWrites :
    (∃ s : State, s.schedule = .hostWrite 0x14 0#32 :: [] ∧ s.busy = false) ∧
      (∃ s : State, s.schedule = .hostWrite 0x14 0#32 :: [] ∧ s.busy = true) ∧
      (∃ s : State, s.schedule = .hostWrite 0x00 1#32 :: [] ∧ s.isOpen = false ∧ s.busy = false) ∧
      (∃ s : State, s.schedule = .hostWrite 0x0C 1#32 :: [] ∧ s.isOpen = true ∧ s.busy = false) ∧
      (∃ s : State, s.schedule = .hostWrite 0x20 0xE0#32 :: [] ∧ s.cmdOvr = true) :=
  ⟨⟨{ closed with schedule := [.hostWrite 0x14 0#32] }, by decide⟩,
    ⟨{ await onCan 0x310#32 with schedule := [.hostWrite 0x14 0#32] }, by decide⟩,
    ⟨{ closed with schedule := [.hostWrite 0x00 1#32] }, by decide⟩,
    ⟨{ onCan with schedule := [.hostWrite 0x0C 1#32] }, by decide⟩,
    ⟨{ onCan with cmdOvr := true, schedule := [.hostWrite 0x20 0xE0#32] }, by decide⟩⟩

theorem witness_WrittenRegistersReadBack :
    (closed.isOpen = false ∧ closed.busy = false) ∧ (0x2C < 0x30 ∨ 0x30 % 4 ≠ 0) ∧ (0x2C < 0x02 ∨ 0x02 % 4 ≠ 0) ∧
      ¬ (0x2C < 0x2C ∨ 0x2C % 4 ≠ 0) := by decide

theorem witness_HostReadsHaveNoSideEffect : ∃ s, Inv s ∧ s.busy = true := ⟨_, inv_wait, by decide⟩

theorem witness_OdPeekShowsTheSelectedEntry :
    15 ≤ (byteAt (issue onCan 0xF10#32).cmd 1).toNat ∧
      (entries (issue onCan 0xE10#32).cfg.od)[(byteAt (issue onCan 0xE10#32).cmd 1).toNat]? = some odTest.errorCodeHigh := by
  decide

end Sys2Proof.Tests
end

section
/-! The host registers and reset: what a host write, a host read and `Reset` leave (10_state.md R46 to R50). -/

namespace Sys2Proof.Proofs

open Sys2Proof.Machine Sys2Proof.Claims

/-! ### The step that takes a host event or a reset from the schedule (20_memory.md R77) -/

theorem step_hostWrite {s : State} {addr : Nat} {w : Word} {rest : List Event}
    (h : s.schedule = .hostWrite addr w :: rest) :
    step s = .next (hostWrite addr w { s with schedule := rest }) := by
  rw [step, runEvent, h]

theorem step_hostRead {s : State} {addr : Nat} {rest : List Event} (h : s.schedule = .hostRead addr :: rest) :
    step s = .next (hostReadEvent addr { s with schedule := rest }) := by
  rw [step, runEvent, h]

theorem step_reset {s : State} {rest : List Event} (h : s.schedule = .reset :: rest) :
    step s = .next (resetEvent { s with schedule := rest }) := by
  rw [step, runEvent, h]

/-! ### Host writes, register by register -/

@[simp] theorem hostWrite_ctrl (w : Word) (s : State) :
    hostWrite 0x00 w s = if s.isOpen || s.busy then s else { s with tsel := Transport.ofBit (w.getLsbD 0) } := rfl

@[simp] theorem hostWrite_nodeId (w : Word) (s : State) :
    hostWrite 0x04 w s = if s.isOpen || s.busy then s else { s with nodeId := w.extractLsb' 0 7 } := rfl

@[simp] theorem hostWrite_timeout (w : Word) (s : State) :
    hostWrite 0x08 w s = if s.busy then s else { s with timeout := w } := rfl

@[simp] theorem hostWrite_baudDiv (w : Word) (s : State) :
    hostWrite 0x0C w s = if s.isOpen || s.busy then s else { s with baudDiv := w.extractLsb' 0 16 } := rfl

@[simp] theorem hostWrite_umark (w : Word) (s : State) :
    hostWrite 0x10 w s = if s.busy then s else { s with umark0 := byteAt w 0, umark1 := byteAt w 1 } := rfl

@[simp] theorem hostWrite_cmd (w : Word) (s : State) :
    hostWrite 0x14 w s = if s.busy then { s with cmdOvr := true } else accept w s := rfl

@[simp] theorem hostWrite_arg0 (w : Word) (s : State) :
    hostWrite 0x18 w s = if s.busy then s else { s with arg0 := w } := rfl

@[simp] theorem hostWrite_arg1 (w : Word) (s : State) :
    hostWrite 0x1C w s = if s.busy then s else { s with arg1 := w } := rfl

@[simp] theorem hostWrite_status (w : Word) (s : State) : hostWrite 0x20 w s = clearSticky w s := rfl

/-- Every other address ignores the write: RESULT, ABORTCODE, ODPEEK and what is not in the table of R20. -/
theorem hostWrite_unwritable {addr : Nat} (w : Word) (s : State)
    (h : addr ∉ [0x00, 0x04, 0x08, 0x0C, 0x10, 0x14, 0x18, 0x1C, 0x20]) : hostWrite addr w s = s := by
  simp only [List.mem_cons, List.not_mem_nil, or_false, not_or] at h
  simp [hostWrite, h]

/-- CTRL, NODEID and BAUDDIV are protected while the block is open or busy (R48). -/
theorem hostWrite_open_or_busy {addr : Nat} (w : Word) {s : State} (ha : addr = 0x00 ∨ addr = 0x04 ∨ addr = 0x0C)
    (h : s.isOpen = true ∨ s.busy = true) : hostWrite addr w s = s := by
  rcases ha with rfl | rfl | rfl <;> simp [h]

/-- TIMEOUT, UMARK, ARG0 and ARG1 are protected while the block is busy (R48). -/
theorem hostWrite_busy_idleOnly {addr : Nat} (w : Word) {s : State}
    (ha : addr = 0x08 ∨ addr = 0x10 ∨ addr = 0x18 ∨ addr = 0x1C) (h : s.busy = true) : hostWrite addr w s = s := by
  rcases ha with rfl | rfl | rfl | rfl <;> simp [h]

/-! ### The bits a register keeps of the word written -/

@[simp] theorem bit_ofBit (b : Bool) : (Transport.ofBit b).bit = b := by
  cases b <;> rfl

/-- A field at the low end of a word is the word cut to the field's width. -/
theorem lowField_eq_setWidth {n : Nat} (w : Word) (h : n ≤ 32) : w.extractLsb' 0 n = w.setWidth n :=
  (BitVec.setWidth_eq_extractLsb' h).symm

/-- What CMD keeps of an accepted word: OP, REG and LEN, the reserved bits 31:24 being 0 (R26, R211). -/
theorem command_bits (w : Word) : 0#8 ++ w.extractLsb' 0 24 = w &&& 0x00FFFFFF#32 := by
  apply BitVec.eq_of_toNat_eq
  calc (0#8 ++ w.extractLsb' 0 24).toNat = w.toNat % 2 ^ 24 := (append_toNat _ _).trans (by simp)
    _ = w.toNat &&& (2 ^ 24 - 1) := (Nat.and_two_pow_sub_one_eq_mod w.toNat 24).symm
    _ = (w &&& 0x00FFFFFF#32).toNat := (BitVec.toNat_and w 0x00FFFFFF#32).symm

theorem accept_cmd_eq_and (w : Word) (s : State) : (accept w s).cmd = w &&& 0x00FFFFFF#32 := command_bits w

/-! ### Host reads -/

/-- What the host reads does not depend on the events still to come. -/
@[simp] theorem hostRead_withSchedule (addr : Nat) (s : State) (es : List Event) :
    hostRead addr { s with schedule := es } = hostRead addr s := rfl

/-- The mask 0xFF06 of STATUS selects DONE, ERR, ERRKIND and ERRSTEP (R29). -/
theorem statusWord_and_outcomeMask {s : State} (hdone : s.done = false) (herr : s.err = false)
    (hkind : s.errKind = none) (hstep : s.errStep = 0#4) : statusWord s &&& 0x0000FF06#32 = 0#32 := by
  have hmask : 0x0000FF06#32 =
      0#16 ++ 0xF#4 ++ 0xF#4 ++ 0#1 ++ 0#1 ++ 0#1 ++ 0#1 ++ 0#1 ++ 1#1 ++ 1#1 ++ 0#1 := by decide
  rw [statusWord, hdone, herr, hkind, hstep, hmask]
  refine BitVec.and_append.trans ?_
  simp only [BitVec.and_append, BitVec.and_zero, BitVec.zero_and]
  decide

/-- While BUSY = 1 no outcome is shown: RESULT, ABORTCODE and the outcome fields of STATUS are clear (R49). -/
theorem no_outcome_of_busy {s : State} (hinv : StatusInv s) (hbusy : s.busy = true) :
    s.result = 0#32 ∧ s.abortCode = 0#32 ∧ statusWord s &&& 0x0000FF06#32 = 0#32 := by
  obtain ⟨hdone, herr, hresult, habort⟩ := hinv.busy_clear hbusy
  have hkind : s.errKind = none := by simpa [herr] using hinv.err_kind
  exact ⟨hresult, habort, statusWord_and_outcomeMask hdone herr hkind (hinv.no_err_step herr)⟩

/-! ### Reset -/

theorem statusWord_resetOf (p : Params) : statusWord (State.resetOf p) = 0#32 := by
  simp [statusWord, State.resetOf, boolBits, errCode, Transport.bit]

theorem resetValues_resetOf (p : Params) : ResetValues p (State.resetOf p) :=
  ⟨rfl, rfl, rfl, rfl, rfl, rfl, rfl, rfl, rfl, statusWord_resetOf p, rfl, rfl, rfl, rfl, rfl, rfl, rfl, rfl, rfl, rfl,
    rfl, rfl, rfl⟩

/-- No entry of R50 is about the events still to come. -/
theorem resetValues_withSchedule {p : Params} {t : State} (h : ResetValues p t) (es : List Event) :
    ResetValues p { t with schedule := es } := h

theorem resetValues_resetEvent (s : State) : ResetValues s.cfg (resetEvent s) :=
  resetValues_withSchedule (resetValues_resetOf s.cfg) s.schedule

/-! ### The obligations -/

/-- Settles O53: the `Reset` event and the initial states are `State.resetOf`, whose fields are the entries of R50. -/
theorem resetRestoresEveryField : Obligations.ResetRestoresEveryField := by
  refine ⟨fun s rest h => ?_, fun p => ⟨resetValues_resetOf p, rfl, rfl⟩, resetValues_resetOf Config.board, rfl, rfl⟩
  exact ⟨_, step_reset h, resetValues_resetEvent { s with schedule := rest }⟩

/-- Settles O57: the event only records what was read, and the invariant keeps the outcome clear while BUSY = 1. -/
theorem hostReadsHaveNoSideEffect : Obligations.HostReadsHaveNoSideEffect := by
  refine ⟨fun s addr rest h => ?_, fun s hinv hbusy => ?_⟩
  · rw [step_hostRead h, hostReadEvent, hostRead_withSchedule]
  · exact no_outcome_of_busy hinv.status hbusy

/-- Settles O55, clause by clause from what a host write does to each register. -/
theorem hostWriteProtection : Obligations.HostWriteProtection := by
  intro s addr w rest h
  rw [step_hostWrite h]
  refine ⟨fun ha hprot => ?closedIdleOnly, fun ha hb => ?idleOnly, fun h0 h4 h8 hC h10 h14 h18 h1C h20 => ?unwritable,
    ?cmd, ?status, fun ho hb => ⟨?ctrl, ?nodeId, ?baudDiv⟩, fun hb => ⟨?timeout, ?umark, ?arg0, ?arg1⟩⟩
  case closedIdleOnly => rw [hostWrite_open_or_busy w (s := { s with schedule := rest }) ha hprot]
  case idleOnly => rw [hostWrite_busy_idleOnly w (s := { s with schedule := rest }) ha hb]
  case unwritable => rw [hostWrite_unwritable w _ (by simp [h0, h4, h8, hC, h10, h14, h18, h1C, h20])]
  case cmd =>
    rintro rfl
    refine ⟨fun hb => ⟨accept w { s with schedule := rest }, ?_, rfl, rfl, accept_cmd_eq_and w _⟩, fun hb => ?_⟩
    · simp [hb]
    · simp [hb]
  case status =>
    rintro rfl
    exact ⟨_, _, _, rfl, by simp, by simp, by simp⟩
  case ctrl =>
    rintro rfl
    exact ⟨Transport.ofBit (w.getLsbD 0), by simp [ho, hb], bit_ofBit _⟩
  case nodeId =>
    rintro rfl
    simp [ho, hb, lowField_eq_setWidth w (n := 7)]
  case baudDiv =>
    rintro rfl
    simp [ho, hb, lowField_eq_setWidth w (n := 16)]
  case timeout | umark | arg0 | arg1 =>
    rintro rfl
    simp [hb]

end Sys2Proof.Proofs
end

section
/-! The reserved host encodings (30_encoding.md R83) and the judging of CAN responses by their class byte (R97, R98). -/

namespace Sys2Proof.Proofs

open Sys2Proof.Machine Sys2Proof.Claims

/-! ### The statements' completion states are the model's operations -/

/-- ERRSTEP is SEQ extended by zeros (R276). -/
theorem setWidth_seq (q : BitVec 2) : q.setWidth 4 = 0#2 ++ q := by
  apply BitVec.eq_of_toNat_eq
  have := q.isLt
  simp only [append_toNat, BitVec.toNat_setWidth, BitVec.toNat_ofNat]
  omega

/-- Every error but DeviceAbort clears ABORTCODE (R276). -/
theorem completeErr_eq_failed {k : ErrKind} (hk : k ≠ .deviceAbort) (s : State) : completeErr k s = failed k s := by
  simp only [completeErr, failed, hk, setWidth_seq, if_false]

theorem completeErr_deviceAbort (code : Word) (s : State) :
    completeErr .deviceAbort { s with abortCode := code } = aborted code s := by
  simp only [completeErr, aborted, failed, setWidth_seq, if_true]

/-- A write step that ends without error completes the command exactly when it is its last (R213). -/
theorem stepDone_endReceive {s : State} (hw : WriteStep s) :
    stepDone (writeSteps (byteAt s.cmd 0)) (endReceive s) = afterAck s := by
  have hw : s.seq.toNat < writeSteps (byteAt s.cmd 0) := hw
  by_cases hlast : s.seq.toNat + 1 = writeSteps (byteAt s.cmd 0)
  · rw [afterAck, if_pos hlast, stepDone_last (by simp [hlast])]
    rfl
  · rw [afterAck, if_neg hlast, stepDone_more (by simp; omega)]
    rfl

/-! ### The command word -/

/-- Accepting a word keeps its OP, REG and LEN bytes (R26, R211). -/
theorem byteAt_accept_cmd {i : Nat} (w : Word) (s : State) (hi : i < 3) : byteAt (accept w s).cmd i = byteAt w i := by
  have hcases : i = 0 ∨ i = 1 ∨ i = 2 := by omega
  apply BitVec.eq_of_toNat_eq
  rw [byteAt_toNat, byteAt_toNat, accept_cmd, append_toNat, BitVec.extractLsb'_toNat]
  rcases hcases with rfl | rfl | rfl <;> simp <;> omega

theorem decodeCommand_accept (w : Word) (s : State) : decodeCommand (accept w s).cmd = decodeCommand w := by
  simp only [decodeCommand, byteAt_accept_cmd w s (by decide : 0 < 3), byteAt_accept_cmd w s (by decide : 1 < 3),
    byteAt_accept_cmd w s (by decide : 2 < 3)]

theorem decodeCommand_reserved {w : Word} (h : ¬ DefinedOp (byteAt w 0)) :
    decodeCommand w = .error (.reservedOp (byteAt w 0)) := by
  simp only [DefinedOp, not_or] at h
  simp [decodeCommand, h]

theorem accept_and_mask (w : Word) (s : State) : accept (w &&& 0x00FFFFFF#32) s = accept w s := by
  simp only [accept, command_bits, BitVec.and_assoc, BitVec.and_self]

/-- A word with a reserved OP raises UsageError at its first engine step, on an open or a closed connection. -/
theorem step_accept_reserved {s : State} {w : Word} (hsched : s.schedule = []) (h : ¬ DefinedOp (byteAt w 0)) :
    step (accept w s) = .next (failed .usageError (accept w s)) := by
  rw [step_engine (accept w s) hsched, engineStep_issue _ rfl, engineIssue, decodeCommand_accept,
    decodeCommand_reserved h]
  exact congrArg _ (completeErr_eq_failed (by decide) _)

/-! ### The operands of READ and WRITE -/

/-- The selectors from 15 on are reserved (R81). -/
theorem lookup_reserved {reg : Byte} (t : OdTable) (h : 15 ≤ reg.toNat) : t.lookup reg = none := by
  have hne : ∀ k : Byte, k.toNat < 15 → reg ≠ k := by
    rintro k hk rfl
    omega
  simp [OdTable.lookup, hne]

/-- The lengths that can be written are 1, 2 and 4 (R82). -/
theorem ofByte?_reserved {len : Byte} (h1 : len ≠ 1#8) (h2 : len ≠ 2#8) (h4 : len ≠ 4#8) :
    WriteLen.ofByte? len = none := by
  simp [WriteLen.ofByte?, h1, h2, h4]

/-- A command of one step runs that step on an open connection. -/
theorem issueCommand_singleton {t : Transport} {s : State} (st : MicroStep) (hs : Issuing t s) (hseq : s.seq = 0#2) :
    issueCommand [st] s = .next (issueStep 1 st s) := by
  obtain ⟨hphase, hopen, -⟩ := hs
  simp [issueCommand, hphase, hopen, hseq]

theorem issueStep_rd_reserved {n : Nat} {r : Byte} {s : State} (h : s.cfg.od.lookup r = none) :
    issueStep n (.rd r) s = failed .usageError s := by
  simp only [issueStep, h]
  exact completeErr_eq_failed (by decide) s

/-- The selector is looked up before the length is checked; either failing raises UsageError (R213). -/
theorem issueStep_wr_reserved {n : Nat} {r len : Byte} {v : Word} {s : State}
    (h : s.cfg.od.lookup r = none ∨ WriteLen.ofByte? len = none) :
    issueStep n (.wr r v len) s = failed .usageError s := by
  rw [← completeErr_eq_failed (by decide) s]
  cases hr : s.cfg.od.lookup r with
  | none => simp [issueStep, hr]
  | some e => simp [issueStep, hr, h.resolve_left (by simp [hr])]

theorem exec_read {t : Transport} {s : State} (reg len : Byte) (hs : Issuing t s) (hseq : s.seq = 0#2) :
    exec (.read reg len) s = .next (issueStep 1 (.rd reg) s) := issueCommand_singleton _ hs hseq

theorem exec_write {t : Transport} {s : State} (reg len : Byte) (hs : Issuing t s) (hseq : s.seq = 0#2) :
    exec (.write reg len) s = .next (issueStep 1 (.wr reg s.arg0 len) s) := issueCommand_singleton _ hs hseq

/-! ### The micro-program of the command in CMD -/

/-- A motor command's step is a write, whatever the length hint (R231). -/
theorem hinted_eq_wr (t : OdTable) (r : Byte) (v : Word) :
    hinted t r v = .wr r v ((t.lookup r).elim 0#8 fun e => e.len.setWidth 8) := by
  unfold hinted
  cases t.lookup r <;> rfl

theorem currentStep_of_readStep {s : State} (h : ReadStep s) : currentStep s = some (.rd (byteAt s.cmd 1)) := by
  obtain ⟨hop, hseq⟩ := h
  simp [currentStep, currentProg, decodeCommand, prog, hop, hseq]

/-- The operation codes whose commands write (R212). -/
theorem op_of_writeSteps_pos {op : Byte} (h : 0 < writeSteps op) :
    op = 0x11#8 ∨ op = 0x20#8 ∨ op = 0x21#8 ∨ op = 0x22#8 ∨ op = 0x23#8 ∨ op = 0x24#8 ∨ op = 0x25#8 := by
  by_contra hne
  simp only [not_or] at hne
  simp [writeSteps, hne] at h

/-- The micro-program of a command that writes: as many steps as R212 gives it, all of them writes. -/
theorem currentProg_writes {s : State} (h : 0 < writeSteps (byteAt s.cmd 0)) :
    (currentProg s).length = writeSteps (byteAt s.cmd 0) ∧
      ∀ st ∈ currentProg s, ∃ r v len, st = .wr r v len := by
  rcases op_of_writeSteps_pos h with hop | hop | hop | hop | hop | hop | hop <;>
    simp [currentProg, decodeCommand, prog, writeSteps, hinted_eq_wr, hop]

theorem length_currentProg_of_writeStep {s : State} (h : WriteStep s) :
    (currentProg s).length = writeSteps (byteAt s.cmd 0) := (currentProg_writes (Nat.zero_lt_of_lt h)).1

theorem currentStep_of_writeStep {s : State} (h : WriteStep s) : ∃ r v len, currentStep s = some (.wr r v len) := by
  obtain ⟨hlen, hwr⟩ := currentProg_writes (Nat.zero_lt_of_lt h)
  have hlt : s.seq.toNat < (currentProg s).length := hlen ▸ h
  obtain ⟨r, v, len, hst⟩ := hwr _ (List.getElem_mem hlt)
  exact ⟨r, v, len, by rw [currentStep, List.getElem?_eq_getElem hlt, hst]⟩

/-! ### Taking a CAN response -/

theorem step_awaiting_can {s : State} (hsched : s.schedule = []) (ha : Awaiting .can s) : step s = engineWaitCan s := by
  rw [step_engine s hsched, engineStep_wait_can s ha.1 ha.2]

/-- A frame that the decoder of the awaited direction reads as an instruction is run as it (R145, R220). -/
theorem step_decodedResponse {s : State} {f : SdoFrame} {i : Instr} (hsched : s.schedule = []) (ha : Awaiting .can s)
    (hf : HeadFrame f s) (hd : decodeAwaited s f = some (.ok i)) : step s = exec i s := by
  obtain ⟨rest, hq⟩ := List.head?_eq_some_iff.mp hf
  simp [step_awaiting_can hsched ha, engineWaitCan, hq, hd]

/-- A class byte that no row of the awaited direction has is MalformedResponse, the frame consumed (R97, R98). -/
theorem step_unexpectedClass {s : State} {f : SdoFrame} {e : DecodeError} (hsched : s.schedule = [])
    (ha : Awaiting .can s) (hf : HeadFrame f s) (hd : decodeAwaited s f = some (.error e)) :
    step s = .next (failed .malformedResponse (tookCan f s)) := by
  obtain ⟨rest, hq⟩ := List.head?_eq_some_iff.mp hf
  rw [← completeErr_eq_failed (by decide) (tookCan f s)]
  simp [step_awaiting_can hsched ha, engineWaitCan, hq, hd, takeCanFrame, tookCan]

theorem decodeAwaited_readStep {s : State} (f : SdoFrame) (h : ReadStep s) :
    decodeAwaited s f = some (decodeReadResponse f) := by
  simp [decodeAwaited, currentStep_of_readStep h]

theorem decodeAwaited_writeStep {s : State} (f : SdoFrame) (h : WriteStep s) :
    decodeAwaited s f = some (decodeWriteResponse s.cfg.wack f) := by
  obtain ⟨r, v, len, hst⟩ := currentStep_of_writeStep h
  simp [decodeAwaited, hst]

theorem decodeReadResponse_unexpected {f : SdoFrame} (h1 : f.cmd ≠ 0x4F#8) (h2 : f.cmd ≠ 0x4B#8)
    (h4 : f.cmd ≠ 0x43#8) (ha : f.cmd ≠ 0x80#8) : decodeReadResponse f = .error (.unexpectedClass f.cmd) := by
  simp [decodeReadResponse, h1, h2, h4, ha]

theorem decodeWriteResponse_unexpected {wack : Byte} {f : SdoFrame} (ha : f.cmd ≠ 0x80#8) (hw : f.cmd ≠ wack) :
    decodeWriteResponse wack f = .error (.unexpectedClass f.cmd) := by
  simp [decodeWriteResponse, ha, hw]

/-! ### Write responses -/

theorem byteAt_index (f : SdoFrame) : byteAt f.index 0 = f.indexLo ∧ byteAt f.index 1 = f.indexHi := by
  have hlo := f.indexLo.isLt
  have hhi := f.indexHi.isLt
  constructor <;> apply BitVec.eq_of_toNat_eq <;>
    simp only [SdoFrame.index, byteAt_toNat, BitVec.toNat_ofNat, fromLe_cons, fromLe_nil] <;> omega

/-- A frame is the word frame of its own fields: decoding an abort or an acknowledgement loses no byte. -/
theorem wordFrame_fields (f : SdoFrame) : wordFrame f.cmd f.index f.sub f.payload = f := by
  obtain ⟨hlo, hhi⟩ := byteAt_index f
  obtain ⟨h0, h1, h2, h3⟩ := byteAt_of_bytes f.p0 f.p1 f.p2 f.p3
  simp only [wordFrame, addressed, SdoFrame.payload, hlo, hhi, h0, h1, h2, h3]

/-- The payload as the sum of its bytes, least significant first (R7). -/
theorem payload_eq_sum (f : SdoFrame) :
    f.payload = BitVec.ofNat 32 (f.p0.toNat + 256 * f.p1.toNat + 65536 * f.p2.toNat + 16777216 * f.p3.toNat) := by
  unfold SdoFrame.payload
  congr 1
  simp only [fromLe_cons, fromLe_nil]
  omega

/-- The instruction that a write response decodes to takes that very frame. -/
theorem exec_of_decodeWriteResponse {wack : Byte} {f : SdoFrame} {i : Instr} (s : State)
    (h : decodeWriteResponse wack f = .ok i) : exec i s = canResponse f s := by
  unfold decodeWriteResponse at h
  split at h
  next habort =>
    cases h
    exact congrArg (canResponse · s) (habort ▸ wordFrame_fields f)
  next =>
    split at h
    · cases h
      exact congrArg (canResponse · s) (wordFrame_fields f)
    · cases h

theorem canResponse_writeStep {s : State} (f : SdoFrame) (ha : Awaiting .can s) (hw : WriteStep s) :
    canResponse f s =
      .next (finishWrite (writeSteps (byteAt s.cmd 0)) (classifyWrite s.cfg.wack f) (tookCan f s)) := by
  obtain ⟨r, v, len, hst⟩ := currentStep_of_writeStep hw
  rw [canResponse, if_pos (And.intro ha.1 ha.2), hst, length_currentProg_of_writeStep hw]
  rfl

/-- In a write step an abort or an acknowledgement ends the step as `classify_write` says (R170). -/
theorem step_writeResponse {s : State} {f : SdoFrame} {i : Instr} (hsched : s.schedule = []) (ha : Awaiting .can s)
    (hw : WriteStep s) (hf : HeadFrame f s) (hd : decodeWriteResponse s.cfg.wack f = .ok i) :
    step s = .next (finishWrite (writeSteps (byteAt s.cmd 0)) (classifyWrite s.cfg.wack f) (tookCan f s)) := by
  have hawaited : decodeAwaited s f = some (.ok i) := (decodeAwaited_writeStep f hw).trans (congrArg some hd)
  calc step s = exec i s := step_decodedResponse hsched ha hf hawaited
    _ = canResponse f s := exec_of_decodeWriteResponse s hd
    _ = _ := canResponse_writeStep f ha hw

theorem step_writeAbort {s : State} {f : SdoFrame} (hsched : s.schedule = []) (ha : Awaiting .can s)
    (hw : WriteStep s) (hf : HeadFrame f s) (hcls : f.cmd = 0x80#8) :
    step s = .next (aborted f.payload (tookCan f s)) := by
  have hverdict : classifyWrite s.cfg.wack f = .abort f.payload := if_pos hcls
  rw [step_writeResponse hsched ha hw hf (if_pos hcls), hverdict]
  exact congrArg _ (completeErr_deviceAbort f.payload (tookCan f s))

theorem step_writeAck {s : State} {f : SdoFrame} (hsched : s.schedule = []) (ha : Awaiting .can s)
    (hw : WriteStep s) (hf : HeadFrame f s) (hcls : f.cmd ≠ 0x80#8) (hack : f.cmd = s.cfg.wack) :
    step s = .next (afterAck (tookCan f s)) := by
  have hverdict : classifyWrite s.cfg.wack f = .acknowledged := (if_neg hcls).trans (if_pos hack)
  rw [step_writeResponse hsched ha hw hf ((if_neg hcls).trans (if_pos hack)), hverdict]
  exact congrArg _ (stepDone_endReceive (s := tookCan f s) hw)

/-! ### The obligations -/

/-- Settles O4: part (a) is the engine step on a word that does not decode, (b) and (c) the two checks of a step's
issue, (d) the three bytes that CMD keeps, (e) the micro-programs, which name no operand but READ's REG and WRITE's REG
and LEN. -/
theorem reservedHostEncodings : Obligations.ReservedHostEncodings := by
  refine ⟨?reservedOp, ?reservedReg, ?badLen, ?reservedBits, ?unusedOperands⟩
  case reservedOp =>
    intro s w hbusy hsched hop
    have haccept : hostWrite 0x14 w s = accept w s := by simp [hbusy]
    rw [haccept]
    exact ⟨rfl, step_accept_reserved hsched hop⟩
  case reservedReg =>
    intro t s reg len hs hseq hreg
    have hnone := lookup_reserved s.cfg.od hreg
    rw [exec_read reg len hs hseq, exec_write reg len hs hseq, issueStep_rd_reserved hnone,
      issueStep_wr_reserved (.inl hnone)]
    exact ⟨rfl, rfl⟩
  case badLen =>
    intro t s reg len hs hseq _ h1 h2 h4
    rw [exec_write reg len hs hseq, issueStep_wr_reserved (.inr (ofByte?_reserved h1 h2 h4))]
  case reservedBits =>
    intro s w
    rw [hostWrite_cmd, hostWrite_cmd, accept_and_mask]
  case unusedOperands =>
    intro s r l r' l'
    exact ⟨rfl, rfl, rfl, rfl, rfl, rfl, rfl, rfl, rfl⟩

/-- Settles O29: the four classes of a read response are the only ones its decoder accepts. -/
theorem unexpectedReadClassIsMalformed : Obligations.UnexpectedReadClassIsMalformed := by
  intro s f hsched ha hr hf h1 h2 h4 habort
  exact step_unexpectedClass hsched ha hf
    ((decodeAwaited_readStep f hr).trans (congrArg some (decodeReadResponse_unexpected h1 h2 h4 habort)))

/-- Settles O30, clause by clause in the order in which the class byte is tested. -/
theorem writeResponsesAreClassified : Obligations.WriteResponsesAreClassified := by
  intro s f hsched ha hw hf
  refine ⟨fun habort => ?abort, fun habort hack => ?ack, fun habort hack => ?neither⟩
  case abort =>
    rw [← payload_eq_sum]
    exact step_writeAbort hsched ha hw hf habort
  case ack => exact step_writeAck hsched ha hw hf habort hack
  case neither =>
    exact step_unexpectedClass hsched ha hf
      ((decodeAwaited_writeStep f hw).trans (congrArg some (decodeWriteResponse_unexpected habort hack)))

end Sys2Proof.Proofs
end

section
/-! Arrivals at the transport inputs: the CAN receive filter and the two receive queues (41_transport_mux.md R134 to
R137). -/

namespace Sys2Proof.Proofs

open Sys2Proof.Machine Sys2Proof.Claims

/-! ### The response identifiers (30_encoding.md R96) -/

/-- `0x580` is the four bits that the decoder tests, above seven zeros: adding the node carries into none of the four. -/
theorem canRspIdOf_eq_append (node : BitVec 7) : canRspIdOf node = 0b1011#4 ++ node := by
  apply BitVec.eq_of_toNat_eq
  have := node.isLt
  simp only [canRspIdOf, append_toNat, BitVec.toNat_add, BitVec.toNat_setWidth, BitVec.toNat_ofNat]
  omega

theorem canRspIdOf_of_highBits {id : BitVec 11} (h : id.extractLsb' 7 4 = 0b1011#4) :
    canRspIdOf (id.extractLsb' 0 7) = id := by
  rw [canRspIdOf_eq_append, ← h, BitVec.extractLsb'_append_extractLsb'_eq_extractLsb' (by decide),
    BitVec.extractLsb'_eq_self]

theorem decodeResponseId_canRspIdOf (node : BitVec 7) :
    decodeResponseId (canRspIdOf node) = .ok (.canRspId node) := by
  rw [decodeResponseId, canRspIdOf_eq_append, if_pos BitVec.extractLsb'_append_eq_left,
    BitVec.extractLsb'_append_eq_right]

theorem decodeResponseId_foreign {id : BitVec 11} (h : ∀ node, id ≠ canRspIdOf node) :
    decodeResponseId id = .error (.foreignId id) :=
  if_neg fun hbits => h _ (canRspIdOf_of_highBits hbits).symm

/-! ### The step that takes an arrival from the schedule (20_memory.md R77) -/

theorem step_uartRx {s : State} {b : Byte} {rest : List Event} (h : s.schedule = .uartRx b :: rest) :
    step s = .next (uartRx b { s with schedule := rest }) := by
  rw [step, runEvent, h]

/-- The filter accepts no identifier but NODEID's response identifier. -/
theorem canRx_foreign {f : CanRxFrame} (s : State) (h : ∀ node, f.ident ≠ .std (canRspIdOf node)) : canRx f s = s := by
  have hdrop : ¬ canAccepts f s = true := fun hacc => by
    obtain ⟨-, -, -, hident⟩ := (canAccepts_iff f s).mp hacc
    exact h _ hident
  rw [canRx, if_neg hdrop]

/-- Running the identifier as an instruction puts the same identifier back into the frame. -/
theorem execCanRspId_eq_canRx {s : State} {f : CanRxFrame} {rest : List Event} {node : BitVec 7}
    (hsched : s.schedule = .canRx f :: rest) (hident : f.ident = .std (canRspIdOf node)) :
    exec (.canRspId node) s = .next (canRx f { s with schedule := rest }) := by
  have hexec : exec (.canRspId node) s = execCanRspId node s := rfl
  rw [hexec, execCanRspId, hsched, ← hident]

/-- Decoding the identifier before filtering the frame makes no difference: a frame with an identifier that does not
decode is one that the filter of R134 drops. -/
theorem step_canRx {s : State} {f : CanRxFrame} {rest : List Event} (h : s.schedule = .canRx f :: rest) :
    step s = .next (canRx f { s with schedule := rest }) := by
  have hstep : step s = engineCanRx f rest s := by rw [step, runEvent, h]
  rw [hstep, engineCanRx]
  cases hident : f.ident with
  | ext id => rw [canRx_foreign _ (by simp [hident])]
  | std id =>
    by_cases hrsp : ∃ node, id = canRspIdOf node
    · obtain ⟨node, rfl⟩ := hrsp
      simp only [decodeResponseId_canRspIdOf]
      exact execCanRspId_eq_canRx h hident
    · have hforeign : ∀ node, id ≠ canRspIdOf node := not_exists.mp hrsp
      simp only [decodeResponseId_foreign hforeign]
      rw [canRx_foreign _ (by simpa [hident] using hforeign)]

/-! ### What the queues record -/

theorem hasRoom_iff (depth : Option Nat) (n : Nat) : hasRoom depth n = true ↔ Room depth n := by
  cases depth <;> simp [hasRoom, Room]

theorem not_room_of_hasRoom_false {depth : Option Nat} {n : Nat} (h : hasRoom depth n = false) : ¬ Room depth n :=
  fun hroom => Bool.eq_false_iff.mp h ((hasRoom_iff depth n).mpr hroom)

theorem bytes_dlcMask (dlc : BitVec 4) (d : SdoFrame) : (dlcMask dlc d).bytes = d.bytes.mapIdx (dlcByte dlc) := rfl

theorem recordedData_dlcMask (f : CanRxFrame) : RecordedData f (dlcMask f.dlc f.data) := by
  intro k hk
  have hbyte : f.data.bytes[k]? = some f.data.bytes[k] := List.getElem?_eq_getElem hk
  rw [bytes_dlcMask, List.getElem?_mapIdx, hbyte, Option.map_some, dlcByte]
  split <;> rfl

/-! ### The obligations -/

/-- Settles O50: each outcome of `canRx` decides the filter and, if that accepts, the room in CRXQ. -/
theorem canFramesAreFiltered : Obligations.CanFramesAreFiltered := by
  intro s f rest hsched
  have hfilter := canAccepts_iff f { s with schedule := rest }
  rw [step_canRx hsched]
  rcases canRx_cases f { s with schedule := rest } with ⟨hdrop, heq⟩ | ⟨hacc, hroom, heq⟩ | ⟨hacc, hfull, heq⟩
  case inl =>
    exact ⟨fun h => absurd (hfilter.mpr h) (Bool.eq_false_iff.mp hdrop), fun _ => congrArg _ heq⟩
  case inr.inl =>
    refine ⟨fun _ => ⟨fun _ => ?queued, fun h => absurd ((hasRoom_iff _ _).mp hroom) h⟩,
      fun h => absurd (hfilter.mp hacc) h⟩
    exact ⟨dlcMask f.dlc f.data, recordedData_dlcMask f, congrArg _ heq⟩
  case inr.inr =>
    exact ⟨fun _ => ⟨fun h => absurd h (not_room_of_hasRoom_false hfull), fun _ => congrArg _ heq⟩,
      fun h => absurd (hfilter.mp hacc) h⟩

/-- Settles O51: each outcome of `uartRx` decides its guard and, if that holds, the room in URXQ. -/
theorem uartBytesAreQueued : Obligations.UartBytesAreQueued := by
  intro s b rest hsched
  rw [step_uartRx hsched]
  rcases uartRx_cases b { s with schedule := rest } with
    ⟨hdrop, heq⟩ | ⟨hopen, huart, hroom, heq⟩ | ⟨hopen, huart, hfull, heq⟩
  case inl => exact ⟨fun h => absurd h hdrop, fun _ => congrArg _ heq⟩
  case inr.inl =>
    exact ⟨fun _ => ⟨fun _ => congrArg _ heq, fun h => absurd ((hasRoom_iff _ _).mp hroom) h⟩,
      fun h => absurd ⟨hopen, huart⟩ h⟩
  case inr.inr =>
    exact ⟨fun _ => ⟨fun h => absurd h (not_room_of_hasRoom_false hfull), fun _ => congrArg _ heq⟩,
      fun h => absurd ⟨hopen, huart⟩ h⟩

end Sys2Proof.Proofs
end

section
/-! The values of the read classes (43_framed_codec.md R166). -/

namespace Sys2Proof.Proofs

open Sys2Proof.Machine Sys2Proof.Claims

/-! ### Little-endian numbers -/

theorem fromLe_singleton (b : Byte) : fromLe [b] = b.toNat := by
  rw [fromLe_cons, fromLe_nil, Nat.mul_zero, Nat.add_zero]

theorem fromLe_lt (bs : List Byte) : fromLe bs < 256 ^ bs.length := by
  induction bs with
  | nil => simp
  | cons b bs ih =>
    have hb : b.toNat < 256 := b.isLt
    rw [fromLe_cons, List.length_cons, Nat.pow_succ]
    omega

/-- Zero extension: at most four bytes fit the 32 bits of RESULT, so their number is not changed (R166). -/
theorem toNat_word_fromLe {bs : List Byte} (h : bs.length ≤ 4) : (BitVec.ofNat 32 (fromLe bs)).toNat = fromLe bs := by
  have hfit : 256 ^ bs.length ≤ 2 ^ 32 := Nat.pow_le_pow_right (n := 256) (by decide) h
  rw [BitVec.toNat_ofNat, Nat.mod_eq_of_lt (Nat.lt_of_lt_of_le (fromLe_lt bs) hfit)]

/-! ### The dispatch on the class byte (R165) -/

theorem decodeResponse_class4F {f : SdoFrame} (h : f.cmd = 0x4F#8) :
    decodeResponse f = .value (BitVec.ofNat 32 (fromLe [f.p0])) := if_pos h

theorem decodeResponse_class4B {f : SdoFrame} (h : f.cmd = 0x4B#8) :
    decodeResponse f = .value (BitVec.ofNat 32 (fromLe [f.p0, f.p1])) := by
  rw [decodeResponse, if_neg (by simp [h]), if_pos h]

theorem decodeResponse_class43 {f : SdoFrame} (h : f.cmd = 0x43#8) :
    decodeResponse f = .value (BitVec.ofNat 32 (fromLe [f.p0, f.p1, f.p2, f.p3])) := by
  rw [decodeResponse, if_neg (by simp [h]), if_neg (by simp [h]), if_pos h, SdoFrame.payload]

/-! ### The obligation -/

/-- Settles O11: each class gives the word of its payload bytes, and those are few enough to fit it. -/
theorem readClassesZeroExtend : Obligations.ReadClassesZeroExtend := by
  refine fun f => ⟨fun h => ⟨_, decodeResponse_class4F h, ?one⟩, fun h => ⟨_, decodeResponse_class4B h, ?two⟩,
    fun h => ⟨_, decodeResponse_class43 h, ?four⟩⟩
  case one => rw [toNat_word_fromLe (by simp), fromLe_singleton]
  case two => rw [toNat_word_fromLe (by simp), fromLe_cons, fromLe_singleton]
  case four =>
    rw [toNat_word_fromLe (by simp), fromLe_cons, fromLe_cons, fromLe_cons, fromLe_singleton]
    omega

end Sys2Proof.Proofs
end

section
/-! The checksum of the UART frame, its validator and the wrapper (43_framed_codec.md R180 to R182, R190). -/

namespace Sys2Proof.Proofs

open Sys2Proof.Machine Sys2Proof.Claims

/-! ### Sums of bytes -/

theorem natSum_cons (b : Byte) (bs : List Byte) : natSum (b :: bs) = b.toNat + natSum bs := rfl

theorem natSum_perm {as bs : List Byte} (h : List.Perm as bs) : natSum as = natSum bs :=
  (h.map BitVec.toNat).sum_eq

/-- The byte sum is the unbounded sum of R180 modulo 256. -/
theorem byteSum_toNat (bs : List Byte) : (byteSum bs).toNat = natSum bs % 256 := by
  induction bs with
  | nil => rfl
  | cons b bs ih => rw [byteSum, BitVec.toNat_add, ih, natSum_cons, Nat.add_mod_mod]

theorem natSum_mod_eq_zero_iff (bs : List Byte) : natSum bs % 256 = 0 ↔ byteSum bs = 0#8 := by
  rw [← byteSum_toNat]
  exact BitVec.toNat_inj (y := 0#8)

theorem byteSum_append_singleton (bs : List Byte) (c : Byte) : byteSum (bs ++ [c]) = byteSum bs + c := by
  rw [byteSum_append]
  exact congrArg _ (BitVec.add_zero c)

/-- Replacing one byte keeps the sum only if the byte is replaced by itself: the other bytes cancel. -/
theorem getElem?_of_byteSum_set_eq {bs : List Byte} {i : Nat} {b : Byte} (hi : i < bs.length)
    (h : byteSum (bs.set i b) = byteSum bs) : bs[i]? = some b := by
  induction bs generalizing i with
  | nil => simp at hi
  | cons x xs ih =>
    cases i with
    | zero =>
      have hbx : b = x := (BitVec.add_left_inj (byteSum xs)).mp h
      simp [hbx]
    | succ i =>
      have htail : byteSum (xs.set i b) = byteSum xs := (BitVec.add_right_inj x).mp h
      simpa using ih (by simpa using hi) htail

/-! ### The checksum -/

theorem lrc_toNat (bs : List Byte) : (lrc bs).toNat = (256 - natSum bs % 256) % 256 := by
  rw [lrc_eq_neg, BitVec.toNat_neg, byteSum_toNat]

/-- The LRC is the one byte that completes the sum to zero (R181), after any bytes. -/
theorem byteSum_append_eq_zero_iff (bs : List Byte) (c : Byte) : byteSum (bs ++ [c]) = 0#8 ↔ c = lrc bs := by
  rw [byteSum_append_singleton, lrc_eq_neg, BitVec.add_comm]
  exact eq_neg_iff_add_eq_zero.symm

/-! ### The ten bytes of a frame -/

theorem uartBytes_eq_append (u : UartFrame) : u.bytes = (u.sync :: u.body.bytes) ++ [u.check] := rfl

theorem length_uartBytes (u : UartFrame) : u.bytes.length = 10 := rfl

theorem take_nine_uartBytes (u : UartFrame) : u.bytes.take 9 = u.sync :: u.body.bytes := rfl

/-- `setByte` is the list update; beyond the tenth byte both change nothing. -/
theorem bytes_setByte (u : UartFrame) (i : Nat) (b : Byte) : (u.setByte i b).bytes = u.bytes.set i b := by
  match i with
  | 0 | 1 | 2 | 3 | 4 | 5 | 6 | 7 | 8 | 9 => rfl
  | _ + 10 => rfl

/-! ### The validator -/

theorem lrcOk_iff_lrc (u : UartFrame) : lrcOk u = true ↔ lrc (u.sync :: u.body.bytes) = u.check := decide_eq_true_iff

theorem lrcOk_iff_byteSum (u : UartFrame) : lrcOk u = true ↔ byteSum u.bytes = 0#8 := by
  rw [lrcOk_iff_lrc, uartBytes_eq_append, byteSum_append_eq_zero_iff, eq_comm]

theorem lrcOk_iff_natSum (u : UartFrame) : lrcOk u = true ↔ natSum u.bytes % 256 = 0 :=
  (lrcOk_iff_byteSum u).trans (natSum_mod_eq_zero_iff u.bytes).symm

theorem lrcOk_setByte_of_ne {u : UartFrame} {i : Nat} {b : Byte} (hok : lrcOk u = true) (hi : i < 10)
    (hne : u.bytes[i]? ≠ some b) : lrcOk (u.setByte i b) = false := by
  refine Bool.eq_false_iff.mpr fun hok' => hne ?_
  have hsum : byteSum (u.bytes.set i b) = byteSum u.bytes := by
    rw [← bytes_setByte, (lrcOk_iff_byteSum _).mp hok', (lrcOk_iff_byteSum _).mp hok]
  exact getElem?_of_byteSum_set_eq hi hsum

/-- The validator sees a frame only through its sum modulo 256. -/
theorem lrcOk_of_natSum_mod_eq {u v : UartFrame} (hok : lrcOk u = true)
    (h : natSum v.bytes % 256 = natSum u.bytes % 256) : lrcOk v = true :=
  (lrcOk_iff_natSum v).mpr (h.trans ((lrcOk_iff_natSum u).mp hok))

/-! ### The wrapper -/

theorem bytes_wrap (f : SdoFrame) : (wrap f).bytes = wrapped f := rfl

theorem lrcOk_wrap (f : SdoFrame) : lrcOk (wrap f) = true := (lrcOk_iff_lrc (wrap f)).mpr rfl

/-! ### The obligations -/

/-- Settles O5: the two's complement of the byte sum as a number; the corner cases are closed computations. -/
theorem lrcIsTheNegatedSum : Obligations.LrcIsTheNegatedSum :=
  ⟨lrc_toNat, by decide, by decide, by decide⟩

/-- Settles O6: the validator is the vanishing of the sum, which one changed byte moves and a reordering does not. -/
theorem lrcDetectsEveryOneByteChange : Obligations.LrcDetectsEveryOneByteChange := by
  refine ⟨fun bs c _ => ?uniqueness, fun u i b => lrcOk_setByte_of_ne, fun u v => lrcOk_of_natSum_mod_eq,
    fun u v hok hperm => ?reordering⟩
  case uniqueness => exact (natSum_mod_eq_zero_iff _).trans (byteSum_append_eq_zero_iff bs c)
  case reordering => exact lrcOk_of_natSum_mod_eq hok (congrArg (· % 256) (natSum_perm hperm))

/-- Settles O7: both forms of R190 are rules about `lrcOk`; the three examples are closed computations. -/
theorem validatorIsZeroSum : Obligations.ValidatorIsZeroSum := by
  refine ⟨fun u => ?recomputed, lrcOk_iff_natSum, by decide, by decide, by decide⟩
  case recomputed => rw [take_nine_uartBytes, lrcOk_iff_lrc]

/-- Settles O8: the checksum that `wrap` appends is the one that the validator recomputes. -/
theorem wrapIsValid : Obligations.WrapIsValid :=
  fun f => ⟨bytes_wrap f, length_uartBytes (wrap f), lrcOk_wrap f⟩

end Sys2Proof.Proofs
end

section
/-! Command acceptance: a host write to CMD while the block is idle or busy (44_host_ops.md R211). -/

namespace Sys2Proof.Proofs

open Sys2Proof.Machine Sys2Proof.Claims

/-! ### A write to CMD in the two cases of BUSY -/

theorem step_commandWrite_of_idle {s : State} {w : Word} {rest : List Event}
    (h : s.schedule = .hostWrite 0x14 w :: rest) (hidle : s.busy = false) :
    step s = .next (accept w { s with schedule := rest }) := by
  simp [step_hostWrite h, hidle]

theorem step_commandWrite_of_busy {s : State} {w : Word} {rest : List Event}
    (h : s.schedule = .hostWrite 0x14 w :: rest) (hbusy : s.busy = true) :
    step s = .next { s with schedule := rest, cmdOvr := true } := by
  simp [step_hostWrite h, hbusy]

/-! ### The obligation -/

/-- Settles O54: while idle the write is `accept`, whose CMD is the word without its reserved bits; while busy it is
the overrun flag alone. -/
theorem commandAcceptance : Obligations.CommandAcceptance := by
  refine fun s w rest h => ⟨fun hidle => ?idle, step_commandWrite_of_busy h⟩
  case idle => rw [step_commandWrite_of_idle h hidle, accept, command_bits]

end Sys2Proof.Proofs
end

section
/-! Commands at their first engine step on a closed connection: NotConnected (60_exceptions.md R277). -/

namespace Sys2Proof.Proofs

open Sys2Proof.Machine Sys2Proof.Claims

/-! ### The commands by their operation code -/

theorem decodeCommand_open {w : Word} (h : byteAt w 0 = 0x01#8) :
    decodeCommand w = .ok (.openConn (byteAt w 1) (byteAt w 2)) := by
  simp [decodeCommand, h]

theorem decodeCommand_close {w : Word} (h : byteAt w 0 = 0x02#8) :
    decodeCommand w = .ok (.closeConn (byteAt w 1) (byteAt w 2)) := by
  simp [decodeCommand, h]

theorem definedOp_of_decodeCommand {w : Word} {i : Instr} (h : decodeCommand w = .ok i) : DefinedOp (byteAt w 0) := by
  by_contra hop
  rw [decodeCommand_reserved hop] at h
  cases h

/-- Every command but OPEN and CLOSE runs its micro-program (R212, R213). -/
theorem exec_eq_issueCommand {w : Word} {i : Instr} (hi : decodeCommand w = .ok i) (hopen : byteAt w 0 ≠ 0x01#8)
    (hclose : byteAt w 0 ≠ 0x02#8) (s : State) : exec i s = issueCommand (prog s i) s := by
  rcases definedOp_of_decodeCommand hi with hop | hop | hop | hop | hop | hop | hop | hop | hop | hop
  case inl => exact absurd hop hopen
  case inr.inl => exact absurd hop hclose
  all_goals
    simp only [decodeCommand, hop] at hi
    cases hi
    rfl

/-! ### The first engine step of a command -/

/-- The connection is checked before the micro-program is looked at, so its steps do not matter. -/
theorem issueCommand_closed (p : List MicroStep) {s : State} (hphase : s.phase = .issue) (hclosed : s.isOpen = false) :
    issueCommand p s = .next (failed .notConnected s) := by
  rw [← completeErr_eq_failed (by decide) s]
  simp [issueCommand, hphase, hclosed]

theorem issueConnection_of_issue (f : State → State) {s : State} (hphase : s.phase = .issue) :
    issueConnection f s = .next (completeOk (f s)) := if_neg (not_not.mpr hphase)

theorem exec_openConn {s : State} (reg len : Byte) (hphase : s.phase = .issue) :
    exec (.openConn reg len) s = .next (completeOk (doOpen s)) := issueConnection_of_issue doOpen hphase

theorem exec_closeConn {s : State} (reg len : Byte) (hphase : s.phase = .issue) :
    exec (.closeConn reg len) s = .next (completeOk (doClose s)) := issueConnection_of_issue doClose hphase

theorem failed_errStep_of_first (k : ErrKind) {s : State} (hseq : s.seq = 0#2) : (failed k s).errStep = 0#4 := by
  simp [failed, hseq]

/-! ### The obligation -/

/-- Settles O33: OPEN and CLOSE complete without an error; every other command runs a micro-program, whose issue checks
the connection first. -/
theorem closedConnectionRaisesNotConnected : Obligations.ClosedConnectionRaisesNotConnected := by
  refine fun s w i hphase hseq hi => ⟨?openClose, fun hopen hclose hclosed => ⟨?raised, ?errStep⟩⟩
  case openClose =>
    rintro (hop | hop)
    · obtain rfl := Except.ok.inj (hi.symm.trans (decodeCommand_open hop))
      exact ⟨_, exec_openConn _ _ hphase, by simp⟩
    · obtain rfl := Except.ok.inj (hi.symm.trans (decodeCommand_close hop))
      exact ⟨_, exec_closeConn _ _ hphase, by simp⟩
  case raised => rw [exec_eq_issueCommand hi hopen hclose s, issueCommand_closed _ hphase hclosed]
  case errStep => exact failed_errStep_of_first .notConnected hseq

end Sys2Proof.Proofs
end

section
/-! The encoder and the decoders undo each other (30_encoding.md R80 to R101; 42_sdo_codec.md R160 to R166). -/

namespace Sys2Proof.Proofs

open Sys2Proof.Machine Sys2Proof.Claims

/-! ### Values assembled from bytes -/

theorem fromLe_div_mod {bs : List Byte} {i : Nat} (h : i < bs.length) : fromLe bs / 256 ^ i % 256 = bs[i].toNat := by
  induction bs generalizing i with
  | nil => simp at h
  | cons b bs ih =>
    have hb : b.toNat < 256 := b.isLt
    rw [fromLe_cons]
    cases i with
    | zero => simp; omega
    | succ i =>
      have htail : (b.toNat + 256 * fromLe bs) / 256 = fromLe bs := by omega
      rw [Nat.pow_succ', ← Nat.div_div_eq_div_mul, htail, ih (by simpa using h)]
      rfl

/-- Splitting an assembled value of any width gives its bytes back. -/
theorem byteAt_ofNat_fromLe {n i : Nat} {bs : List Byte} (hi : i < bs.length) (hn : 8 * bs.length ≤ n) :
    byteAt (BitVec.ofNat n (fromLe bs)) i = bs[i] := by
  apply BitVec.eq_of_toNat_eq
  have hfit : fromLe bs < 2 ^ n :=
    calc fromLe bs < 256 ^ bs.length := fromLe_lt bs
      _ = 2 ^ (8 * bs.length) := by rw [Nat.pow_mul]
      _ ≤ 2 ^ n := Nat.pow_le_pow_right (by decide) hn
  rw [byteAt_toNat, BitVec.toNat_ofNat, Nat.mod_eq_of_lt hfit, fromLe_div_mod hi]

/-- The bytes 0 and 1 of a word are those of its low half. -/
theorem byteAt_setWidth_half (v : Word) :
    byteAt (v.setWidth 16) 0 = byteAt v 0 ∧ byteAt (v.setWidth 16) 1 = byteAt v 1 := by
  constructor <;> apply BitVec.eq_of_toNat_eq <;> simp only [byteAt_toNat, BitVec.toNat_setWidth] <;> omega

theorem setWidth_byte (v : Word) : v.setWidth 8 = byteAt v 0 := BitVec.setWidth_eq_extractLsb' (by decide)

/-- The operand bytes of a command word put together again: the word without its reserved bits (R80, R83 d). -/
theorem commandWord_fields (w : Word) : commandWord (byteAt w 0) (byteAt w 1) (byteAt w 2) = w &&& 0x00FFFFFF#32 := by
  apply BitVec.eq_of_toNat_eq
  rw [commandWord_toNat, byteAt_toNat, byteAt_toNat, byteAt_toNat, ← command_bits, append_toNat,
    BitVec.extractLsb'_toNat]
  simp
  omega

/-! ### The frames of an encoding are decoded back -/

theorem decodeRequest_rdReqFrame (index : Half) (sub : Byte) :
    decodeRequest (rdReqFrame index sub) = .ok (.sdoRdReq index sub) := by
  simp only [decodeRequest, rdReqFrame, addressed_index]
  rfl

theorem decodeRequest_wr1ReqFrame (index : Half) (sub v : Byte) :
    decodeRequest (wr1ReqFrame index sub v) = .ok (.sdoWr1Req index sub v) := by
  simp only [decodeRequest, wr1ReqFrame, addressed_index]
  rfl

theorem decodeRequest_wr2ReqFrame (index : Half) (sub : Byte) (v : Half) :
    decodeRequest (wr2ReqFrame index sub v) = .ok (.sdoWr2Req index sub v) := by
  have hv : (wr2ReqFrame index sub v).payloadLow = v := half_of_bytes v
  simp only [decodeRequest, hv]
  simp only [wr2ReqFrame, addressed_index]
  rfl

theorem decodeRequest_wordFrame (index : Half) (sub : Byte) (v : Word) :
    decodeRequest (wordFrame 0x23#8 index sub v) = .ok (.sdoWr4Req index sub v) := by
  simp only [decodeRequest, wordFrame_payload]
  simp only [wordFrame, addressed_index]
  rfl

theorem decodeReadResponse_rd1RspFrame (index : Half) (sub v : Byte) (rest : BitVec 24) :
    decodeReadResponse (rd1RspFrame index sub v rest) = .ok (.sdoRd1Rsp index sub v rest) := by
  have hrest : (rd1RspFrame index sub v rest).payloadUpper = rest := upper_of_bytes rest
  simp only [decodeReadResponse, hrest]
  simp only [rd1RspFrame, addressed_index]
  rfl

theorem decodeReadResponse_rd2RspFrame (index : Half) (sub : Byte) (v rest : Half) :
    decodeReadResponse (rd2RspFrame index sub v rest) = .ok (.sdoRd2Rsp index sub v rest) := by
  have hv : (rd2RspFrame index sub v rest).payloadLow = v := half_of_bytes v
  have hrest : (rd2RspFrame index sub v rest).payloadHigh = rest := half_of_bytes rest
  simp only [decodeReadResponse, hv, hrest]
  simp only [rd2RspFrame, addressed_index]
  rfl

theorem decodeReadResponse_class43 (index : Half) (sub : Byte) (v : Word) :
    decodeReadResponse (wordFrame 0x43#8 index sub v) = .ok (.sdoRd4Rsp index sub v) := by
  simp only [decodeReadResponse, wordFrame_payload]
  simp only [wordFrame, addressed_index]
  rfl

theorem decodeReadResponse_abort (index : Half) (sub : Byte) (code : Word) :
    decodeReadResponse (wordFrame 0x80#8 index sub code) = .ok (.sdoAbort index sub code) := by
  simp only [decodeReadResponse, wordFrame_payload]
  simp only [wordFrame, addressed_index]
  rfl

theorem decodeWriteResponse_ack {ack : Byte} (index : Half) (sub : Byte) (rest : Word) (h : ack ≠ 0x80#8) :
    decodeWriteResponse ack (wordFrame ack index sub rest) = .ok (.sdoWrAck ack index sub rest) := by
  have hcmd : (wordFrame ack index sub rest).cmd = ack := rfl
  rw [decodeWriteResponse, hcmd, if_neg h, if_pos rfl, wordFrame_payload]
  simp only [wordFrame, addressed_index]
  rfl

theorem decodeUartResponse_uartRspFrame (mark0 mark1 indexHi sub : Byte) (v : Word) (chk : Byte) :
    decodeUartResponse mark0 mark1 (uartRspFrame mark0 mark1 indexHi sub v chk) =
      .ok (.uartRdRsp mark0 mark1 indexHi sub v chk) := by
  have hv : (uartRspFrame mark0 mark1 indexHi sub v chk).body.payload = v := word_of_bytes v
  simp only [decodeUartResponse, hv]
  simp [uartRspFrame]

/-- `0x600` is the four bits that the decoder tests, above seven zeros: adding the node carries into none of them. -/
theorem canReqIdOf_eq_append (node : BitVec 7) : canReqIdOf node = 0b1100#4 ++ node := by
  apply BitVec.eq_of_toNat_eq
  have := node.isLt
  simp only [canReqIdOf, append_toNat, BitVec.toNat_add, BitVec.toNat_setWidth, BitVec.toNat_ofNat]
  omega

theorem decodeCanId_canReqIdOf (node : BitVec 7) : decodeCanId (canReqIdOf node) = .ok (.canReqId node) := by
  rw [decodeCanId, canReqIdOf_eq_append, if_pos BitVec.extractLsb'_append_eq_left, BitVec.extractLsb'_append_eq_right]

theorem decodeCanId_canRspIdOf (node : BitVec 7) : decodeCanId (canRspIdOf node) = .ok (.canRspId node) := by
  have hclass : (canRspIdOf node).extractLsb' 7 4 = 0b1011#4 := by
    rw [canRspIdOf_eq_append, BitVec.extractLsb'_append_eq_left]
  rw [decodeCanId, if_neg (by rw [hclass]; decide), decodeResponseId_canRspIdOf]

/-! ### Which operands a well-formed instruction may have -/

theorem wellFormed_sdoWrAck {c : WireCtx} {ack : Byte} {index : Half} {sub : Byte} {rest : Word}
    (h : WellFormed c (.sdoWrAck ack index sub rest)) : ack ≠ 0x80#8 ∧ ack = c.wack := by
  simp only [WellFormed, checkInstr] at h
  split at h
  · cases h
  next habort =>
    split at h
    next hack => exact ⟨habort, hack⟩
    · cases h

theorem wellFormed_uartRdRsp {c : WireCtx} {mark0 mark1 indexHi sub : Byte} {v : Word} {chk : Byte}
    (h : WellFormed c (.uartRdRsp mark0 mark1 indexHi sub v chk)) : mark0 = c.umark0 ∧ mark1 = c.umark1 := by
  simp only [WellFormed, checkInstr] at h
  split at h
  · cases h
  next h0 =>
    split at h
    · cases h
    next h1 => exact ⟨not_not.mp h0, not_not.mp h1⟩

/-! ### What is decoded is encoded back -/

theorem encode_of_decodeCommand {w : Word} {i : Instr} (h : decodeCommand w = .ok i) :
    encode i = .command (w &&& 0x00FFFFFF#32) := by
  rw [← commandWord_fields]
  rcases definedOp_of_decodeCommand h with hop | hop | hop | hop | hop | hop | hop | hop | hop | hop
  all_goals
    simp only [decodeCommand, hop] at h
    cases h
    rw [hop]
    rfl

/-- The address bytes of a frame are those of its index field. -/
theorem addressed_fields (f : SdoFrame) : addressed f.cmd f.index f.sub f.p0 f.p1 f.p2 f.p3 = f := by
  obtain ⟨hlo, hhi⟩ := byteAt_index f
  simp only [addressed, hlo, hhi]

theorem encode_of_decodeRequest {f : SdoFrame} {i : Instr} (h : decodeRequest f = .ok i) : encode i = .request f := by
  have haddr := addressed_fields f
  unfold decodeRequest at h
  split at h
  next hcmd =>
    split at h
    next hpad =>
      obtain ⟨h0, h1, h2, h3⟩ := hpad
      cases h
      rw [hcmd, h0, h1, h2, h3] at haddr
      exact congrArg Wire.request haddr
    · cases h
  next =>
    split at h
    next hcmd =>
      split at h
      next hpad =>
        obtain ⟨h1, h2, h3⟩ := hpad
        cases h
        rw [hcmd, h1, h2, h3] at haddr
        exact congrArg Wire.request haddr
      · cases h
    next =>
      split at h
      next hcmd =>
        split at h
        next hpad =>
          obtain ⟨h2, h3⟩ := hpad
          cases h
          have hv0 : byteAt f.payloadLow 0 = f.p0 := byteAt_ofNat_fromLe (bs := [f.p0, f.p1]) (by simp) (by simp)
          have hv1 : byteAt f.payloadLow 1 = f.p1 := byteAt_ofNat_fromLe (bs := [f.p0, f.p1]) (by simp) (by simp)
          rw [hcmd, h2, h3, ← hv0, ← hv1] at haddr
          exact congrArg Wire.request haddr
        · cases h
      next =>
        split at h
        next hcmd =>
          cases h
          exact congrArg Wire.request (hcmd ▸ wordFrame_fields f)
        · cases h

theorem encode_of_decodeReadResponse {f : SdoFrame} {i : Instr} (h : decodeReadResponse f = .ok i) :
    encode i = .readResponse f := by
  have haddr := addressed_fields f
  unfold decodeReadResponse at h
  split at h
  next hcmd =>
    cases h
    have hrest : ∀ k (hk : k < 3), byteAt f.payloadUpper k = [f.p1, f.p2, f.p3][k] := fun k hk =>
      byteAt_ofNat_fromLe (bs := [f.p1, f.p2, f.p3]) hk (by simp)
    rw [hcmd] at haddr
    rw [encode, rd1RspFrame, hrest 0 (by decide), hrest 1 (by decide), hrest 2 (by decide)]
    exact congrArg Wire.readResponse haddr
  next =>
    split at h
    next hcmd =>
      cases h
      have hlow : ∀ k (hk : k < 2), byteAt f.payloadLow k = [f.p0, f.p1][k] := fun k hk =>
        byteAt_ofNat_fromLe (bs := [f.p0, f.p1]) hk (by simp)
      have hhigh : ∀ k (hk : k < 2), byteAt f.payloadHigh k = [f.p2, f.p3][k] := fun k hk =>
        byteAt_ofNat_fromLe (bs := [f.p2, f.p3]) hk (by simp)
      rw [hcmd] at haddr
      rw [encode, rd2RspFrame, hlow 0 (by decide), hlow 1 (by decide), hhigh 0 (by decide), hhigh 1 (by decide)]
      exact congrArg Wire.readResponse haddr
    next =>
      split at h
      next hcmd =>
        cases h
        exact congrArg Wire.readResponse (hcmd ▸ wordFrame_fields f)
      next =>
        split at h
        next hcmd =>
          cases h
          exact congrArg Wire.readResponse (hcmd ▸ wordFrame_fields f)
        · cases h

/-- An abort is encoded as the answer to a read step, so here it is the bytes that are the same (R93). -/
theorem bytes_encode_of_decodeWriteResponse {wack : Byte} {f : SdoFrame} {i : Instr}
    (h : decodeWriteResponse wack f = .ok i) : (encode i).bytes = f.bytes := by
  unfold decodeWriteResponse at h
  split at h
  next hcmd =>
    cases h
    exact congrArg SdoFrame.bytes (hcmd ▸ wordFrame_fields f)
  next =>
    split at h
    · cases h
      exact congrArg SdoFrame.bytes (wordFrame_fields f)
    · cases h

theorem encode_of_decodeUartRequest {u : UartFrame} {i : Instr} (h : decodeUartRequest u = .ok i) :
    encode i = .uartRequest u := by
  unfold decodeUartRequest at h
  split at h
  next hsync =>
    split at h <;> cases h
    all_goals
      rename_i hbody
      have hframe := Wire.request.inj (encode_of_decodeRequest hbody)
      rw [encode, hframe, ← hsync]
  · cases h

theorem encode_of_decodeUartResponse {m0 m1 : Byte} {u : UartFrame} {i : Instr}
    (h : decodeUartResponse m0 m1 u = .ok i) : encode i = .uartResponse u := by
  unfold decodeUartResponse at h
  split at h
  next hsync =>
    split at h
    · cases h
      obtain ⟨h0, h1, h2, h3⟩ := byteAt_of_bytes u.body.p0 u.body.p1 u.body.p2 u.body.p3
      simp only [encode, uartRspFrame, SdoFrame.payload, h0, h1, h2, h3, ← hsync]
    · cases h
  · cases h

theorem canReqIdOf_of_highBits {id : BitVec 11} (h : id.extractLsb' 7 4 = 0b1100#4) :
    canReqIdOf (id.extractLsb' 0 7) = id := by
  rw [canReqIdOf_eq_append, ← h, BitVec.extractLsb'_append_extractLsb'_eq_extractLsb' (by decide),
    BitVec.extractLsb'_eq_self]

theorem encode_of_decodeCanId {id : BitVec 11} {i : Instr} (h : decodeCanId id = .ok i) : encode i = .canId id := by
  unfold decodeCanId at h
  split at h
  next hreq =>
    cases h
    exact congrArg Wire.canId (canReqIdOf_of_highBits hreq)
  next =>
    unfold decodeResponseId at h
    split at h
    next hrsp =>
      cases h
      exact congrArg Wire.canId (canRspIdOf_of_highBits hrsp)
    · cases h

/-! ### The requests the block encodes -/

theorem encodeRead_eq_rdReqFrame (index : Half) (sub : Byte) : encodeRead index sub = rdReqFrame index sub := rfl

theorem encodeWrite_one (index : Half) (sub : Byte) (v : Word) :
    encodeWrite index sub v .one = wr1ReqFrame index sub (v.setWidth 8) := by
  rw [setWidth_byte]
  rfl

theorem encodeWrite_two (index : Half) (sub : Byte) (v : Word) :
    encodeWrite index sub v .two = wr2ReqFrame index sub (v.setWidth 16) := by
  obtain ⟨h0, h1⟩ := byteAt_setWidth_half v
  rw [wr2ReqFrame, h0, h1]
  rfl

theorem encodeWrite_four (index : Half) (sub : Byte) (v : Word) :
    encodeWrite index sub v .four = wordFrame 0x23#8 index sub v := rfl

/-- A word without all but its low bytes is its value modulo a power of 256. -/
theorem word_of_lowBytes (v : Word) (n : WriteLen) :
    fromLe ((List.range n.bytes).map (byteAt v)) = v.toNat % 2 ^ (8 * n.bytes) := by
  have hv := v.isLt
  cases n <;> simp [WriteLen.bytes, List.range_succ, byteAt_toNat] <;> omega

/-! ### The obligations -/

/-- Settles O1, constructor by constructor: each decoder reads the encoder's bits; the two conditional rows use what
well-formedness says of their operands. -/
theorem decodeOfEncode : Obligations.DecodeOfEncode := by
  intro c i hwf
  cases i with
  | openConn reg len | closeConn reg len | read reg len | write reg len | resetError reg len | quickStop reg len
  | startMove reg len | setTargetPosition reg len | setTrapezoidSpeed reg len | setPosSpeed reg len =>
    simp [encode, decode, decodeCommand]
  | sdoRdReq index sub => exact decodeRequest_rdReqFrame index sub
  | sdoWr1Req index sub v => exact decodeRequest_wr1ReqFrame index sub v
  | sdoWr2Req index sub v => exact decodeRequest_wr2ReqFrame index sub v
  | sdoWr4Req index sub v => exact decodeRequest_wordFrame index sub v
  | sdoRd1Rsp index sub v rest => exact decodeReadResponse_rd1RspFrame index sub v rest
  | sdoRd2Rsp index sub v rest => exact decodeReadResponse_rd2RspFrame index sub v rest
  | sdoRd4Rsp index sub v => exact decodeReadResponse_class43 index sub v
  | sdoAbort index sub code => exact decodeReadResponse_abort index sub code
  | sdoWrAck ack index sub rest =>
    obtain ⟨habort, hack⟩ := wellFormed_sdoWrAck hwf
    rw [encode, decode, ← hack]
    exact decodeWriteResponse_ack index sub rest habort
  | uartRdReq index sub chk =>
    simp only [encode, decode, decodeUartRequest, decodeRequest_rdReqFrame, if_true]
  | uartWr1Req index sub v chk =>
    simp only [encode, decode, decodeUartRequest, decodeRequest_wr1ReqFrame, if_true]
  | uartWr2Req index sub v chk =>
    simp only [encode, decode, decodeUartRequest, decodeRequest_wr2ReqFrame, if_true]
  | uartWr4Req index sub v chk =>
    simp only [encode, decode, decodeUartRequest, decodeRequest_wordFrame, if_true]
  | uartRdRsp mark0 mark1 indexHi sub v chk =>
    obtain ⟨h0, h1⟩ := wellFormed_uartRdRsp hwf
    rw [encode, decode, ← h0, ← h1]
    exact decodeUartResponse_uartRspFrame mark0 mark1 indexHi sub v chk
  | canReqId node => exact decodeCanId_canReqIdOf node
  | canRspId node => exact decodeCanId_canRspIdOf node

/-- Settles O2, interface by interface: what each decoder accepts is the encoding of what it answers. -/
theorem decodingKeepsEveryBit : Obligations.DecodingKeepsEveryBit := by
  intro c w i h
  cases w with
  | command x => rw [encode_of_decodeCommand h]
  | request f => rw [encode_of_decodeRequest h]
  | readResponse f => rw [encode_of_decodeReadResponse h]
  | writeResponse f => exact bytes_encode_of_decodeWriteResponse h
  | uartRequest u => rw [encode_of_decodeUartRequest h]
  | uartResponse u => rw [encode_of_decodeUartResponse h]
  | canId id => rw [encode_of_decodeCanId h]

/-- Settles O9: the block's encoders give the frames of the encoder, which are decoded back. -/
theorem encodedRequestsDecode : Obligations.EncodedRequestsDecode := by
  intro index sub v
  rw [encodeRead_eq_rdReqFrame, encodeWrite_one, encodeWrite_two, encodeWrite_four]
  exact ⟨decodeRequest_rdReqFrame index sub, decodeRequest_wr1ReqFrame index sub _,
    decodeRequest_wr2ReqFrame index sub _, decodeRequest_wordFrame index sub v⟩

/-- Settles O10: the class of the echo reads exactly the bytes that a write of that length carries. -/
theorem echoedWriteReadsBack : Obligations.EchoedWriteReadsBack := by
  intro index sub v n
  rw [← word_of_lowBytes]
  cases n with
  | one => exact decodeResponse_class4F rfl
  | two => exact decodeResponse_class4B rfl
  | four => exact decodeResponse_class43 rfl

/-- Settles O3: closed computations of the decoders. -/
theorem writtenOutWordsDecode : Obligations.WrittenOutWordsDecode := by
  unfold Obligations.WrittenOutWordsDecode
  decide

end Sys2Proof.Proofs
end

section
/-! Everything a step can do: one inversion for the engine (44_host_ops.md R213, R220), one for a host write
(10_state.md R48), and one for the step as a whole (20_memory.md R77). -/

namespace Sys2Proof.Proofs

open Sys2Proof.Machine Sys2Proof.Claims

/-! ### The fetch of a command in ISSUE -/

theorem engineIssue_of_decode {s : State} {i : Instr} (h : decodeCommand s.cmd = .ok i) : engineIssue s = exec i s := by
  rw [engineIssue, h]

theorem currentProg_of_decode {s : State} {i : Instr} (h : decodeCommand s.cmd = .ok i) : currentProg s = prog s i := by
  rw [currentProg, h]

theorem engineIssue_reserved {s : State} (h : ¬ DefinedOp (byteAt s.cmd 0)) :
    engineIssue s = .next (completeErr .usageError s) := by
  rw [engineIssue, decodeCommand_reserved h]

theorem engineIssue_open {s : State} (hphase : s.phase = .issue) (hop : byteAt s.cmd 0 = 0x01#8) :
    engineIssue s = .next (completeOk (doOpen s)) := by
  rw [engineIssue_of_decode (decodeCommand_open hop), exec_openConn _ _ hphase]

theorem engineIssue_close {s : State} (hphase : s.phase = .issue) (hop : byteAt s.cmd 0 = 0x02#8) :
    engineIssue s = .next (completeOk (doClose s)) := by
  rw [engineIssue_of_decode (decodeCommand_close hop), exec_closeConn _ _ hphase]

theorem exists_decode_of_definedOp {w : Word} (h : DefinedOp (byteAt w 0)) : ∃ i, decodeCommand w = .ok i := by
  rcases h with hop | hop | hop | hop | hop | hop | hop | hop | hop | hop
  all_goals exact ⟨_, by simp only [decodeCommand, hop]; rfl⟩

theorem engineIssue_command {s : State} (hdef : DefinedOp (byteAt s.cmd 0)) (hopen : byteAt s.cmd 0 ≠ 0x01#8)
    (hclose : byteAt s.cmd 0 ≠ 0x02#8) : engineIssue s = issueCommand (currentProg s) s := by
  obtain ⟨i, hi⟩ := exists_decode_of_definedOp hdef
  rw [engineIssue_of_decode hi, currentProg_of_decode hi, exec_eq_issueCommand hi hopen hclose]

/-! ### The fetch of a response in WAIT -/

/-- The response frames are run by what takes them from CRXQ. -/
theorem exec_of_encode_response {i : Instr} {f : SdoFrame} (s : State)
    (h : encode i = .readResponse f ∨ encode i = .writeResponse f) : exec i s = canResponse f s := by
  cases i <;> rcases h with h | h <;> cases h <;> rfl

theorem decodeResponse_malformed {f : SdoFrame} {e : DecodeError} (h : decodeReadResponse f = .error e) :
    decodeResponse f = .malformed := by
  by_cases h1 : f.cmd = 0x4F#8
  · simp [decodeReadResponse, h1] at h
  by_cases h2 : f.cmd = 0x4B#8
  · simp [decodeReadResponse, h2] at h
  by_cases h4 : f.cmd = 0x43#8
  · simp [decodeReadResponse, h4] at h
  by_cases ha : f.cmd = 0x80#8
  · simp [decodeReadResponse, ha] at h
  simp [decodeResponse, h1, h2, h4, ha]

theorem classifyWrite_malformed {wack : Byte} {f : SdoFrame} {e : DecodeError}
    (h : decodeWriteResponse wack f = .error e) : classifyWrite wack f = .malformed := by
  by_cases ha : f.cmd = 0x80#8
  · simp [decodeWriteResponse, ha] at h
  by_cases hw : f.cmd = wack
  · simp [decodeWriteResponse, hw] at h
    split at h <;> cases h
  simp [classifyWrite, ha, hw]

/-- Decoding the class byte first makes no difference: a frame that does not decode is one that the codec judges
malformed. -/
theorem engineWaitCan_frame {s : State} {f : SdoFrame} {rest : List CanData} (hphase : s.phase = .wait)
    (hcan : s.tselAct = .can) (hq : s.crxq = ⟨8#4, f⟩ :: rest) : engineWaitCan s = canResponse f s := by
  have hdecode : engineWaitCan s = (match decodeAwaited s f with
      | some (.ok i) => exec i s
      | some (.error _) => .next (completeErr .malformedResponse (takeCanFrame f s))
      | none => .fault .noCurrentStep) := by
    rw [engineWaitCan, hq]
    rfl
  rw [hdecode, decodeAwaited, canResponse, if_pos ⟨hphase, hcan⟩]
  cases hst : currentStep s with
  | none => rfl
  | some st =>
    cases st with
    | rd r =>
      cases hd : decodeReadResponse f with
      | ok i =>
        simp only
        rw [exec_of_encode_response s (.inl (encode_of_decodeReadResponse hd)), canResponse, if_pos ⟨hphase, hcan⟩, hst]
      | error e => simp only [decodeResponse_malformed hd, finishRead]
    | wr r v n =>
      cases hd : decodeWriteResponse s.cfg.wack f with
      | ok i =>
        simp only
        rw [exec_of_decodeWriteResponse s hd, canResponse, if_pos ⟨hphase, hcan⟩, hst]
      | error e => simp only [classifyWrite_malformed hd, finishWrite]

/-- The sync byte and the current markers stand at the head of the buffer (R188, R191). -/
def HasHeader (s : State) (u : UartFrame) : Prop :=
  u.sync = syncByteValue ∧ u.body.cmd = s.umark0 ∧ u.body.indexLo = s.umark1

theorem decodeUartResponse_of_header {s : State} {u : UartFrame} (h : HasHeader s u) :
    ∃ i, decodeUartResponse s.umark0 s.umark1 u = .ok i := by
  obtain ⟨hsync, hmarks⟩ := h
  exact ⟨_, by rw [decodeUartResponse, if_pos hsync, if_pos hmarks]⟩

theorem decodeUartResponse_of_not_header {s : State} {u : UartFrame} (h : ¬ HasHeader s u) :
    ∃ e, decodeUartResponse s.umark0 s.umark1 u = .error e := by
  unfold decodeUartResponse
  split
  next hsync =>
    split
    next hmarks => exact absurd ⟨hsync, hmarks⟩ h
    · exact ⟨_, rfl⟩
  · exact ⟨_, rfl⟩

theorem exec_of_decodeUartResponse {s : State} {u : UartFrame} {i : Instr}
    (h : decodeUartResponse s.umark0 s.umark1 u = .ok i) : exec i s = uartResponse u s := by
  have henc := encode_of_decodeUartResponse h
  cases i <;> cases henc
  rfl

theorem engineWaitUart_hunt {s : State} {b : Byte} {rest : List Byte} (hq : s.urxq = b :: rest) (hcnt : s.rxCnt < 3) :
    engineWaitUart s = .next (syncByte b { s with urxq := rest }) := by
  rw [engineWaitUart, hq]
  exact if_pos hcnt

theorem engineWaitUart_body {s : State} {b : Byte} {rest : List Byte} (hq : s.urxq = b :: rest) (hlo : 3 ≤ s.rxCnt)
    (hhi : s.rxCnt < 9) : engineWaitUart s = .next (bodyByte b { s with urxq := rest }) := by
  rw [engineWaitUart, hq]
  exact (if_neg (by omega)).trans (if_pos hhi)

theorem engineWaitUart_last {s : State} {b : Byte} {rest : List Byte} (hq : s.urxq = b :: rest) (hcnt : 9 ≤ s.rxCnt)
    (hhead : HasHeader s (s.rxBuf.setByte 9 b)) : engineWaitUart s = uartResponse (s.rxBuf.setByte 9 b) s := by
  obtain ⟨i, hi⟩ := decodeUartResponse_of_header hhead
  rw [← exec_of_decodeUartResponse hi, engineWaitUart, hq]
  simp only [if_neg (show ¬ s.rxCnt < 3 by omega), if_neg (show ¬ s.rxCnt < 9 by omega), hi]

theorem engineWaitUart_badMarkers {s : State} {b : Byte} {rest : List Byte} (hq : s.urxq = b :: rest)
    (hcnt : 9 ≤ s.rxCnt) (hhead : ¬ HasHeader s (s.rxBuf.setByte 9 b)) :
    engineWaitUart s = .next (completeErr .malformedResponse
      { s with urxq := rest, rxBuf := s.rxBuf.setByte 9 b, rxCnt := 10 }) := by
  obtain ⟨e, he⟩ := decodeUartResponse_of_not_header hhead
  rw [engineWaitUart, hq]
  simp only [if_neg (show ¬ s.rxCnt < 3 by omega), if_neg (show ¬ s.rxCnt < 9 by omega), he]

/-- With the markers in place the checksum decides (R192). -/
theorem decodeUart_of_header {s : State} {u : UartFrame} (h : HasHeader s u) :
    decodeUart s.umark0 s.umark1 u = if lrcOk u then .ok u.body.payload else .error .checksumMismatch := by
  obtain ⟨-, h0, h1⟩ := h
  rw [decodeUart, if_neg (by simp [h0, h1])]

/-! ### What an engine step can do -/

/-- The next states of an engine step, by what the engine has done. -/
inductive EngineMove (s : State) : State → Prop where
  /-- Nothing is enabled: idle, or waiting for an item or the deadline. -/
  | waits (hphase : s.phase = .idle ∨ s.phase = .wait ∧ s.texp = false) : EngineMove s s
  /-- OPEN (R218). -/
  | opens (hphase : s.phase = .issue) (hop : byteAt s.cmd 0 = 0x01#8) : EngineMove s (completeOk (doOpen s))
  /-- CLOSE (R219). -/
  | closes (hphase : s.phase = .issue) (hop : byteAt s.cmd 0 = 0x02#8) : EngineMove s (completeOk (doClose s))
  /-- A command or a step is refused before anything is sent (R275, R277). -/
  | refuses (k : ErrKind) (hphase : s.phase = .issue) (hk : k = .usageError ∨ k = .notConnected) :
      EngineMove s (completeErr k s)
  /-- A request goes out and its response is awaited (R213, R141). -/
  | awaits (f : SdoFrame) (st : MicroStep) (hphase : s.phase = .issue) (hopen : s.isOpen = true)
      (hst : currentStep s = some st) (huart : s.tselAct = .uart → ∃ r, st = .rd r) :
      EngineMove s (startReceive (send f s))
  /-- A write goes out on UART, where no response is awaited (R184). -/
  | sends (f : SdoFrame) (hphase : s.phase = .issue) (hopen : s.isOpen = true) (huart : s.tselAct = .uart)
      (hst : (currentStep s).isSome = true) : EngineMove s (stepDone (currentProg s).length (send f s))
  /-- The deadline has passed on an empty queue (R271). -/
  | timesOut (hphase : s.phase = .wait) (htexp : s.texp = true) : EngineMove s (completeErr .timeout s)
  /-- The frame at the head of CRXQ ends the command with an error (R146, R167, R170). -/
  | failsCan (k : ErrKind) (d : CanData) (rest : List CanData) (buf : UartFrame) (code : Word)
      (hphase : s.phase = .wait) (hcan : s.tselAct = .can) (hq : s.crxq = d :: rest)
      (hk : k = .malformedResponse ∨ k = .deviceAbort) :
      EngineMove s (completeErr k { s with crxq := rest, rxBuf := buf, abortCode := code })
  /-- The frame at the head of CRXQ is the value that the read step awaits (R216). -/
  | readsCan (d : CanData) (rest : List CanData) (buf : UartFrame) (w : Word) (r : Byte)
      (hphase : s.phase = .wait) (hcan : s.tselAct = .can) (hq : s.crxq = d :: rest)
      (hst : currentStep s = some (.rd r)) :
      EngineMove s (stepDone (currentProg s).length (endReceive { s with crxq := rest, rxBuf := buf, result := w }))
  /-- The frame at the head of CRXQ is the acknowledgement that the write step awaits (R217). -/
  | acknowledged (d : CanData) (rest : List CanData) (buf : UartFrame) (hphase : s.phase = .wait)
      (hcan : s.tselAct = .can) (hq : s.crxq = d :: rest) (hst : (currentStep s).isSome = true) :
      EngineMove s (stepDone (currentProg s).length (endReceive { s with crxq := rest, rxBuf := buf }))
  /-- The sync detector takes a byte (R186). -/
  | hunts (b : Byte) (rest : List Byte) (hphase : s.phase = .wait) (huart : s.tselAct = .uart)
      (hq : s.urxq = b :: rest) (hcnt : s.rxCnt < 3) : EngineMove s (syncByte b { s with urxq := rest })
  /-- The body read takes a byte (R188). -/
  | fills (b : Byte) (rest : List Byte) (hphase : s.phase = .wait) (huart : s.tselAct = .uart)
      (hq : s.urxq = b :: rest) (hlo : 3 ≤ s.rxCnt) (hhi : s.rxCnt < 9) :
      EngineMove s (bodyByte b { s with urxq := rest })
  /-- The tenth byte makes a valid frame (R192). -/
  | readsUart (b : Byte) (rest : List Byte) (w : Word) (r : Byte) (hphase : s.phase = .wait)
      (huart : s.tselAct = .uart) (hq : s.urxq = b :: rest) (hst : currentStep s = some (.rd r)) :
      EngineMove s (stepDone (currentProg s).length
        (endReceive { s with urxq := rest, rxBuf := s.rxBuf.setByte 9 b, rxCnt := 10, result := w }))
  /-- The tenth byte makes a frame that is not valid (R191, R192). -/
  | failsUart (k : ErrKind) (b : Byte) (rest : List Byte) (hphase : s.phase = .wait) (huart : s.tselAct = .uart)
      (hq : s.urxq = b :: rest) (hcnt : 9 ≤ s.rxCnt)
      (hk : k = .checksumMismatch ∨ k = .malformedResponse ∧ ¬ HasHeader s (s.rxBuf.setByte 9 b)) :
      EngineMove s (completeErr k { s with urxq := rest, rxBuf := s.rxBuf.setByte 9 b, rxCnt := 10 })

theorem issueStep_move {s : State} {st : MicroStep} (hphase : s.phase = .issue) (hopen : s.isOpen = true)
    (hst : currentStep s = some st) : EngineMove s (issueStep (currentProg s).length st s) := by
  rcases issueStep_cases (currentProg s).length st s with h | ⟨r, e, rfl, -, h⟩ | ⟨r, v, len, e, w, rfl, -, -, h⟩
  · exact h ▸ .refuses .usageError hphase (.inl rfl)
  · exact h ▸ .awaits _ _ hphase hopen hst fun _ => ⟨r, rfl⟩
  · rw [h]
    cases ht : s.tselAct with
    | can =>
      rw [issueWrite_can _ _ _ ht]
      exact .awaits _ _ hphase hopen hst fun hu => by simp [ht] at hu
    | uart =>
      rw [issueWrite_uart _ _ _ ht]
      exact .sends _ hphase hopen ht (by simp [hst])

theorem engineIssue_move {s t : State} (hphase : s.phase = .issue) (h : engineIssue s = .next t) : EngineMove s t := by
  by_cases hdef : DefinedOp (byteAt s.cmd 0)
  case neg =>
    rw [engineIssue_reserved hdef] at h
    cases h
    exact .refuses .usageError hphase (.inl rfl)
  by_cases hop : byteAt s.cmd 0 = 0x01#8
  · rw [engineIssue_open hphase hop] at h
    cases h
    exact .opens hphase hop
  by_cases hcl : byteAt s.cmd 0 = 0x02#8
  · rw [engineIssue_close hphase hcl] at h
    cases h
    exact .closes hphase hcl
  rw [engineIssue_command hdef hop hcl] at h
  rcases issueCommand_next h with ⟨hne, -⟩ | ⟨-, -, rfl⟩ | ⟨-, hopen, st, hst, rfl⟩
  · exact absurd hphase hne
  · exact .refuses .notConnected hphase (.inr rfl)
  · exact issueStep_move hphase hopen hst

theorem canResponse_move {s t : State} {f : SdoFrame} {rest : List CanData} (hphase : s.phase = .wait)
    (hcan : s.tselAct = .can) (hq : s.crxq = ⟨8#4, f⟩ :: rest) (h : canResponse f s = .next t) : EngineMove s t := by
  have htake : takeCanFrame f s = { s with crxq := rest, rxBuf := { s.rxBuf with body := f } } := by
    rw [takeCanFrame, hq]
    rfl
  rcases canResponse_next h with ⟨hne, -⟩ | ⟨-, -, r, hst, rfl⟩ | ⟨-, -, r, v, n, hst, rfl⟩
  · exact absurd ⟨hphase, hcan⟩ hne
  · rw [htake]
    cases decodeResponse f with
    | value w => exact .readsCan _ rest _ w r hphase hcan hq hst
    | abort code => exact .failsCan .deviceAbort _ rest _ code hphase hcan hq (.inr rfl)
    | malformed => exact .failsCan .malformedResponse _ rest _ s.abortCode hphase hcan hq (.inl rfl)
  · rw [htake]
    cases classifyWrite s.cfg.wack f with
    | acknowledged => exact .acknowledged _ rest _ hphase hcan hq (by simp [hst])
    | abort code => exact .failsCan .deviceAbort _ rest _ code hphase hcan hq (.inr rfl)
    | malformed => exact .failsCan .malformedResponse _ rest _ s.abortCode hphase hcan hq (.inl rfl)

theorem engineWaitCan_move {s t : State} (hphase : s.phase = .wait) (hcan : s.tselAct = .can)
    (h : engineWaitCan s = .next t) : EngineMove s t := by
  cases hq : s.crxq with
  | nil =>
    rw [engineWaitCan, hq] at h
    cases htexp : s.texp with
    | false =>
      obtain rfl : s = t := by simpa [htexp] using h
      exact .waits (.inr ⟨hphase, htexp⟩)
    | true =>
      obtain rfl : completeErr .timeout s = t := by simpa [htexp] using h
      exact .timesOut hphase htexp
  | cons d rest =>
    by_cases hdlc : d.dlc = 8#4
    · have hd : s.crxq = ⟨8#4, d.data⟩ :: rest := by rw [hq, ← hdlc]
      exact canResponse_move hphase hcan hd (engineWaitCan_frame hphase hcan hd ▸ h)
    · rw [engineWaitCan, hq] at h
      simp only [if_neg hdlc] at h
      cases h
      exact .failsCan .malformedResponse d rest s.rxBuf s.abortCode hphase hcan hq (.inl rfl)

theorem uartResponse_move {s t : State} {b : Byte} {rest : List Byte} (hphase : s.phase = .wait)
    (huart : s.tselAct = .uart) (hq : s.urxq = b :: rest) (hcnt : 9 ≤ s.rxCnt)
    (hhead : HasHeader s (s.rxBuf.setByte 9 b)) (h : uartResponse (s.rxBuf.setByte 9 b) s = .next t) :
    EngineMove s t := by
  rcases uartResponse_next h with ⟨hne, -⟩ | ⟨-, -, ⟨r, hst⟩, ⟨w, -, rfl⟩ | ⟨k, hk, rfl⟩⟩
  · exact absurd ⟨hphase, huart⟩ hne
  · rw [hq]
    exact .readsUart b rest w r hphase huart hq hst
  · rw [decodeUart_of_header hhead] at hk
    split at hk <;> cases hk
    rw [hq]
    exact .failsUart _ b rest hphase huart hq hcnt (.inl rfl)

theorem engineWaitUart_move {s t : State} (hphase : s.phase = .wait) (huart : s.tselAct = .uart)
    (h : engineWaitUart s = .next t) : EngineMove s t := by
  cases hq : s.urxq with
  | nil =>
    rw [engineWaitUart, hq] at h
    cases htexp : s.texp with
    | false =>
      obtain rfl : s = t := by simpa [htexp] using h
      exact .waits (.inr ⟨hphase, htexp⟩)
    | true =>
      obtain rfl : completeErr .timeout s = t := by simpa [htexp] using h
      exact .timesOut hphase htexp
  | cons b rest =>
    by_cases hlo : s.rxCnt < 3
    · rw [engineWaitUart_hunt hq hlo] at h
      cases h
      exact .hunts b rest hphase huart hq hlo
    by_cases hhi : s.rxCnt < 9
    · rw [engineWaitUart_body hq (by omega) hhi] at h
      cases h
      exact .fills b rest hphase huart hq (by omega) hhi
    have hcnt : 9 ≤ s.rxCnt := Nat.le_of_not_lt hhi
    by_cases hhead : HasHeader s (s.rxBuf.setByte 9 b)
    · exact uartResponse_move hphase huart hq hcnt hhead (engineWaitUart_last hq hcnt hhead ▸ h)
    · rw [engineWaitUart_badMarkers hq hcnt hhead] at h
      cases h
      exact .failsUart _ b rest hphase huart hq hcnt (.inr ⟨rfl, hhead⟩)

/-- The inversion of the engine step. -/
theorem engineStep_move {s t : State} (h : engineStep s = .next t) : EngineMove s t := by
  cases hphase : s.phase with
  | idle =>
    rw [engineStep_idle s hphase] at h
    cases h
    exact .waits (.inl hphase)
  | issue => exact engineIssue_move hphase (engineStep_issue s hphase ▸ h)
  | wait =>
    cases ht : s.tselAct with
    | can => exact engineWaitCan_move hphase ht (engineStep_wait_can s hphase ht ▸ h)
    | uart => exact engineWaitUart_move hphase ht (engineStep_wait_uart s hphase ht ▸ h)

/-! ### What a host write can do -/

/-- The states a host write can leave, by which protection let it through (R48). -/
inductive WriteMove (addr : Nat) (w : Word) (s : State) : State → Prop where
  /-- The write is ignored. -/
  | ignored : WriteMove addr w s s
  /-- CTRL, NODEID or BAUDDIV, on a closed and idle block. -/
  | configures (hclosed : s.isOpen = false) (hidle : s.busy = false) (t : Transport) (n : BitVec 7) (b : Half) :
      WriteMove addr w s { s with tsel := t, nodeId := n, baudDiv := b }
  /-- TIMEOUT, UMARK, ARG0 or ARG1, on an idle block. -/
  | prepares (hidle : s.busy = false) (time : Word) (m0 m1 : Byte) (a0 a1 : Word) :
      WriteMove addr w s { s with timeout := time, umark0 := m0, umark1 := m1, arg0 := a0, arg1 := a1 }
  /-- A command is accepted (R211). -/
  | accepts (haddr : addr = 0x14) (hidle : s.busy = false) : WriteMove addr w s (accept w s)
  /-- CMDOVR is set, or sticky flags are cleared (R33, R211). -/
  | flags (a b c : Bool) : WriteMove addr w s { s with cmdOvr := a, urxOvr := b, crxOvr := c }

theorem hostWrite_move (addr : Nat) (w : Word) (s : State) : WriteMove addr w s (hostWrite addr w s) := by
  by_cases hmem : addr ∈ [0x00, 0x04, 0x08, 0x0C, 0x10, 0x14, 0x18, 0x1C, 0x20]
  case neg => rw [hostWrite_unwritable w s hmem]; exact .ignored
  simp only [List.mem_cons, List.not_mem_nil, or_false] at hmem
  by_cases hconfig : addr = 0x00 ∨ addr = 0x04 ∨ addr = 0x0C
  · by_cases hprot : s.isOpen = true ∨ s.busy = true
    · rw [hostWrite_open_or_busy w hconfig hprot]
      exact .ignored
    · obtain ⟨hclosed, hidle⟩ : s.isOpen = false ∧ s.busy = false := by simpa using hprot
      have hfree : ¬ (s.isOpen || s.busy) = true := by simp [hclosed, hidle]
      rcases hconfig with rfl | rfl | rfl
      · rw [hostWrite_ctrl, if_neg hfree]
        exact .configures hclosed hidle _ s.nodeId s.baudDiv
      · rw [hostWrite_nodeId, if_neg hfree]
        exact .configures hclosed hidle s.tsel _ s.baudDiv
      · rw [hostWrite_baudDiv, if_neg hfree]
        exact .configures hclosed hidle s.tsel s.nodeId _
  by_cases hregs : addr = 0x08 ∨ addr = 0x10 ∨ addr = 0x18 ∨ addr = 0x1C
  · cases hb : s.busy with
    | true =>
      rw [hostWrite_busy_idleOnly w hregs hb]
      exact .ignored
    | false =>
      have hfree : ¬ s.busy = true := by simp [hb]
      rcases hregs with rfl | rfl | rfl | rfl
      · rw [hostWrite_timeout, if_neg hfree]
        exact .prepares hb w s.umark0 s.umark1 s.arg0 s.arg1
      · rw [hostWrite_umark, if_neg hfree]
        exact .prepares hb s.timeout _ _ s.arg0 s.arg1
      · rw [hostWrite_arg0, if_neg hfree]
        exact .prepares hb s.timeout s.umark0 s.umark1 w s.arg1
      · rw [hostWrite_arg1, if_neg hfree]
        exact .prepares hb s.timeout s.umark0 s.umark1 s.arg0 w
  obtain rfl | rfl : addr = 0x14 ∨ addr = 0x20 := by omega
  · cases hb : s.busy with
    | true =>
      rw [hostWrite_cmd, if_pos hb]
      exact .flags true s.urxOvr s.crxOvr
    | false =>
      rw [hostWrite_cmd, if_neg (by simp [hb])]
      exact .accepts rfl hb
  · rw [hostWrite_status]
    exact .flags _ _ _

/-! ### What a step can do -/

theorem step_timerExpire {s : State} {rest : List Event} (h : s.schedule = .timerExpire :: rest) :
    step s = .next (timerExpire { s with schedule := rest }) := by
  rw [step, runEvent, h]

theorem step_engineEvent {s : State} {rest : List Event} (h : s.schedule = .engine :: rest) :
    step s = engineStep { s with schedule := rest } := by
  rw [step, runEvent, h]

/-- The next states of a step, by the event it takes (R77). -/
inductive StepMove (s : State) : State → Prop where
  | engine {t : State} (rest : List Event) (hnext : EngineNext s) (h : EngineMove { s with schedule := rest } t) :
      StepMove s t
  | hostWrite {t : State} (addr : Nat) (w : Word) (rest : List Event) (hs : s.schedule = .hostWrite addr w :: rest)
      (h : WriteMove addr w { s with schedule := rest } t) : StepMove s t
  | hostRead (addr : Nat) (rest : List Event) (hs : s.schedule = .hostRead addr :: rest) :
      StepMove s (hostReadEvent addr { s with schedule := rest })
  | uartRx (b : Byte) (rest : List Event) (hs : s.schedule = .uartRx b :: rest) :
      StepMove s (uartRx b { s with schedule := rest })
  | canRx (f : CanRxFrame) (rest : List Event) (hs : s.schedule = .canRx f :: rest) :
      StepMove s (canRx f { s with schedule := rest })
  | timer (rest : List Event) (hs : s.schedule = .timerExpire :: rest) :
      StepMove s (timerExpire { s with schedule := rest })
  | reset (rest : List Event) (hs : s.schedule = .reset :: rest) : StepMove s (resetEvent { s with schedule := rest })

/-- The engine step of a state is that of the state with its events taken off, put back. -/
theorem step_engineNext {s : State} (h : EngineNext s) : ∃ rest, step s = engineStep { s with schedule := rest } := by
  rcases h with h | h
  · exact ⟨[], by rw [step_engine s h, ← h]⟩
  · obtain ⟨rest, hs⟩ := List.head?_eq_some_iff.mp h
    exact ⟨rest, step_engineEvent hs⟩

/-- The inversion of the step. -/
theorem step_move {s t : State} (h : step s = .next t) : StepMove s t := by
  have hengine (hnext : EngineNext s) : StepMove s t := by
    obtain ⟨rest, hstep⟩ := step_engineNext hnext
    exact .engine rest hnext (engineStep_move (hstep ▸ h))
  cases hs : s.schedule with
  | nil => exact hengine (.inl hs)
  | cons e rest =>
    cases e with
    | engine => exact hengine (.inr (by simp [hs]))
    | hostWrite addr w =>
      rw [step_hostWrite hs] at h
      cases h
      exact .hostWrite addr w rest hs (hostWrite_move addr w _)
    | hostRead addr =>
      rw [step_hostRead hs] at h
      cases h
      exact .hostRead addr rest hs
    | uartRx b =>
      rw [step_uartRx hs] at h
      cases h
      exact .uartRx b rest hs
    | canRx f =>
      rw [step_canRx hs] at h
      cases h
      exact .canRx f rest hs
    | timerExpire =>
      rw [step_timerExpire hs] at h
      cases h
      exact .timer rest hs
    | reset =>
      rw [step_reset hs] at h
      cases h
      exact .reset rest hs

end Sys2Proof.Proofs
end

section
/-! The receive phase on UART: the sync detector, the body read and the deadline (43_framed_codec.md R186 to R194). -/

namespace Sys2Proof.Proofs

open Sys2Proof.Machine Sys2Proof.Claims

/-! ### Matches in a stream -/

theorem matchAt_append_left (s : State) (d l : List Byte) (p : Nat) :
    MatchAt s (d ++ l) (d.length + p) ↔ MatchAt s l p := by
  have hget : ∀ k, (d ++ l)[d.length + k]? = l[k]? := fun k => by
    rw [List.getElem?_append_right (Nat.le_add_right _ _), Nat.add_sub_cancel_left]
  rw [MatchAt, MatchAt, Nat.add_assoc, Nat.add_assoc, hget, hget, hget]

theorem matchAt_append_right {l : List Byte} {p : Nat} (s : State) (more : List Byte) (h : p + 3 ≤ l.length) :
    MatchAt s (l ++ more) p ↔ MatchAt s l p := by
  rw [MatchAt, MatchAt, List.getElem?_append_left (by omega), List.getElem?_append_left (by omega),
    List.getElem?_append_left (by omega)]

theorem matchAt_of_header {s : State} {u : UartFrame} (h : HasHeader s u) (rest : List Byte) :
    MatchAt s (u.bytes ++ rest) 0 := by
  obtain ⟨hsync, h0, h1⟩ := h
  exact ⟨congrArg some hsync, congrArg some h0, congrArg some h1⟩

/-! ### One scan of the window -/

/-- A match fills the window of three. -/
theorem syncScan_found_window {m0 m1 b0 b1 b2 : Byte} {l : List Byte} (hl : l.length ≤ 3)
    (h : syncScan m0 m1 l = .found b0 b1 b2) : l = [b0, b1, b2] := by
  induction l with
  | nil => cases h
  | cons b rest ih =>
    have hrest : syncScan m0 m1 rest ≠ .found b0 b1 b2 := fun h' => by
      rw [ih (by simp at hl; omega) h'] at hl
      simp at hl
    unfold syncScan at h
    split at h
    · split at h
      · split at h
        · cases h
          rfl
        · exact absurd h hrest
      · cases h
    · exact absurd h hrest

/-- Without a match the scan keeps at most two bytes, and no match of the stream starts at a byte it drops. -/
theorem syncScan_more_window {s : State} {l w : List Byte} (hl : l.length ≤ 3)
    (h : syncScan s.umark0 s.umark1 l = .more w) :
    w.length ≤ 2 ∧ ∃ d, l = d ++ w ∧ ∀ p < d.length, ∀ more, ¬ MatchAt s (l ++ more) p := by
  induction l with
  | nil =>
    cases h
    exact ⟨by simp, [], rfl, by simp⟩
  | cons b rest ih =>
    have hdropped (hb : ∀ more, ¬ MatchAt s (b :: rest ++ more) 0)
        (h' : syncScan s.umark0 s.umark1 rest = .more w) :
        w.length ≤ 2 ∧ ∃ d, b :: rest = d ++ w ∧ ∀ p < d.length, ∀ more, ¬ MatchAt s (b :: rest ++ more) p := by
      obtain ⟨hw, d, rfl, hd⟩ := ih (by simp at hl ⊢; omega) h'
      refine ⟨hw, b :: d, rfl, fun p hp more => ?_⟩
      cases p with
      | zero => exact hb more
      | succ p => exact fun hm => hd p (Nat.lt_of_succ_lt_succ hp) more hm
    unfold syncScan at h
    split at h
    · split at h
      next x y =>
        split at h
        · cases h
        next hm => exact hdropped (fun more hmatch => hm (by simpa [MatchAt] using hmatch.2)) h
      next hne =>
        cases h
        refine ⟨?_, [], rfl, by simp⟩
        match rest, hne with
        | [], _ => simp
        | [x], _ => simp
        | [x, y], hne => exact absurd rfl (hne x y)
        | _ :: _ :: _ :: _, _ =>
          simp at hl
          omega
    next hb => exact hdropped (fun more hmatch => hb (Option.some.inj hmatch.1)) h

/-! ### The engine steps of the phase -/

theorem settle_succ {n : Nat} {s t : State} (h : step s = .next t) :
    HostSide.settle (n + 1) s = HostSide.settle n t := by
  rw [HostSide.settle, h]

theorem step_awaiting_uart {s : State} (hsched : s.schedule = []) (ha : Awaiting .uart s) :
    step s = engineWaitUart s := by
  rw [step_engine s hsched, engineStep_wait_uart s ha.1 ha.2]

/-- The deadline on an empty queue (R271). -/
theorem step_timeout_uart {s : State} (hsched : s.schedule = []) (ha : Awaiting .uart s) (hq : s.urxq = [])
    (htexp : s.texp = true) : step s = .next (failed .timeout s) := by
  rw [step_awaiting_uart hsched ha, engineWaitUart, hq, ← completeErr_eq_failed (by decide)]
  simp only [if_pos htexp]

/-- A detector with window `w` and queue `q`. -/
def hunting (w q : List Byte) (s : State) : State := { s with syncW := w, urxq := q }

/-- A body read at count `k` with buffer `buf` and queue `q`. -/
def filling (buf : UartFrame) (k : Nat) (q : List Byte) (s : State) : State :=
  { s with rxBuf := buf, rxCnt := k, urxq := q }

/-- The buffer with the three header bytes of `u` put in. -/
def withHeader (u buf : UartFrame) : UartFrame :=
  ((buf.setByte 0 u.sync).setByte 1 u.body.cmd).setByte 2 u.body.indexLo

/-- The buffer with the bytes of a list put in from place `k` on. -/
def putBytes (buf : UartFrame) (k : Nat) : List Byte → UartFrame
  | [] => buf
  | b :: bs => putBytes (buf.setByte k b) (k + 1) bs

/-- What the body read has put into the buffer stands at its places; the bytes before are untouched. -/
theorem bytes_putBytes {bs : List Byte} {buf : UartFrame} {k : Nat} (h : k + bs.length ≤ 10) (j : Nat)
    (hj : j < k + bs.length) : (putBytes buf k bs).bytes[j]? = if j < k then buf.bytes[j]? else bs[j - k]? := by
  induction bs generalizing buf k with
  | nil => exact (if_pos hj).symm
  | cons b bs ih =>
    rw [List.length_cons] at h hj
    rw [putBytes, ih (by omega) (by omega), bytes_setByte, List.getElem?_set]
    rcases Nat.lt_trichotomy j k with hlt | rfl | hgt
    · rw [if_pos (by omega), if_neg (by omega), if_pos hlt]
    · rw [if_pos (by omega), if_pos rfl, if_pos (by rw [length_uartBytes]; omega), if_neg (by omega), Nat.sub_self]
      rfl
    · rw [if_neg (by omega), if_neg (by omega), show j - k = j - (k + 1) + 1 by omega, List.getElem?_cons_succ]

/-- The last six bytes of the body and the checksum after the header make the frame. -/
theorem putBytes_frame (u buf : UartFrame) :
    (putBytes (withHeader u buf) 3 ((u.bytes.drop 3).take 6)).setByte 9 u.check = u := by
  obtain ⟨sync, ⟨c, i0, i1, sub, p0, p1, p2, p3⟩, check⟩ := u
  simp [UartFrame.bytes, SdoFrame.bytes, putBytes, withHeader, UartFrame.setByte]

section

variable {s : State} (hsched : s.schedule = []) (ha : Awaiting .uart s)

include hsched ha

theorem step_hunting {b : Byte} {w q : List Byte} (hcnt : s.rxCnt = 0) :
    step (hunting w (b :: q) s) = .next (syncByte b (hunting w q s)) := by
  rw [step_awaiting_uart (s := hunting w (b :: q) s) hsched ha]
  exact engineWaitUart_hunt (s := hunting w (b :: q) s) rfl (by simp [hunting, hcnt])

/-- The detector drops what comes before the first header, takes the header, and hands over to the body read (R187). -/
theorem settle_hunting {u : UartFrame} (hu : HasHeader s u) (hcnt : s.rxCnt = 0) (n : Nat) (rest : List Byte)
    {q w g : List Byte} (hw : w.length ≤ 2) (hstream : w ++ q = g ++ (u.bytes ++ rest))
    (hfirst : ∀ p < g.length, ¬ MatchAt s (g ++ (u.bytes ++ rest)) p) :
    HostSide.settle (n + (g.length + 3 - w.length)) (hunting w q s) =
      HostSide.settle n (filling (withHeader u s.rxBuf) 3 (u.bytes.drop 3 ++ rest) (hunting [] [] s)) := by
  induction q generalizing w g with
  | nil =>
    have hlen := congrArg List.length hstream
    simp only [List.length_append, List.length_nil, length_uartBytes] at hlen
    omega
  | cons b q ih =>
    have hl : (w ++ [b]).length ≤ 3 := by simp; omega
    have hbytes : (w ++ [b]) ++ q = g ++ (u.bytes ++ rest) := by rw [← hstream]; simp
    have hstep := step_hunting hsched ha (b := b) (w := w) (q := q) hcnt
    rcases syncByte_cases b (hunting w q s) with ⟨w', hscan, heq⟩ | ⟨b0, b1, b2, hscan, heq⟩
    · obtain ⟨hw', d, hd, hdrop⟩ := syncScan_more_window (s := s) hl hscan
      have hbefore : d.length ≤ g.length := by
        by_contra hlt
        refine hdrop g.length (by omega) q ?_
        rw [hbytes]
        exact (matchAt_append_left s g _ 0).mpr (matchAt_of_header hu rest)
      rw [hd, List.append_assoc] at hbytes
      obtain ⟨g', rfl, hstream'⟩ : ∃ g', g = d ++ g' ∧ w' ++ q = g' ++ (u.bytes ++ rest) := by
        rcases List.append_eq_append_iff.mp hbytes with ⟨g', hg, hq⟩ | ⟨c, hd', hq⟩
        · exact ⟨g', hg, hq⟩
        · obtain rfl : c = [] := List.eq_nil_of_length_eq_zero (by rw [hd', List.length_append] at hbefore; omega)
          exact ⟨[], by simpa using hd'.symm, by simpa using hq.symm⟩
      have hlen := congrArg List.length hd
      simp only [List.length_append, List.length_singleton] at hlen
      have hfirst' : ∀ p < g'.length, ¬ MatchAt s (g' ++ (u.bytes ++ rest)) p := fun p hp hm => by
        refine hfirst (d.length + p) (by simp; omega) ?_
        rw [List.append_assoc]
        exact (matchAt_append_left s d _ p).mpr hm
      have hcount : n + ((d ++ g').length + 3 - w.length) = n + (g'.length + 3 - w'.length) + 1 := by
        rw [List.length_append]
        omega
      rw [hcount, settle_succ hstep, heq]
      exact ih hw' hstream' hfirst'
    · have hwin := syncScan_found_window hl hscan
      obtain ⟨rfl, rfl, rfl⟩ := syncScan_found hscan
      have hlen := congrArg List.length hwin
      simp at hlen
      obtain rfl : g = [] := by
        by_contra hne
        refine hfirst 0 (List.length_pos_iff.mpr hne) ?_
        rw [← hbytes, hwin]
        exact ⟨rfl, rfl, rfl⟩
      have hq : q = u.bytes.drop 3 ++ rest := by
        rw [hwin] at hbytes
        exact congrArg (List.drop 3) hbytes
      have hcount : n + (([] : List Byte).length + 3 - w.length) = n + 1 := by
        simp
        omega
      obtain ⟨hsync, h0, h1⟩ := hu
      rw [hcount, settle_succ hstep, heq, hq, filling, withHeader, hsync, h0, h1]
      rfl

/-- Without a match the detector takes everything (R187). -/
theorem settle_hunting_all (hcnt : s.rxCnt = 0) (n : Nat) {q w : List Byte} (hw : w.length ≤ 2)
    (hnone : ∀ p, ¬ MatchAt s (w ++ q) p) :
    ∃ w', HostSide.settle (n + q.length) (hunting w q s) = HostSide.settle n (hunting w' [] s) := by
  induction q generalizing w with
  | nil => exact ⟨w, rfl⟩
  | cons b q ih =>
    have hl : (w ++ [b]).length ≤ 3 := by simp; omega
    have hbytes : (w ++ [b]) ++ q = w ++ b :: q := by simp
    have hstep := step_hunting hsched ha (b := b) (w := w) (q := q) hcnt
    rcases syncByte_cases b (hunting w q s) with ⟨w', hscan, heq⟩ | ⟨b0, b1, b2, hscan, heq⟩
    · obtain ⟨hw', d, hd, -⟩ := syncScan_more_window (s := s) hl hscan
      have hnone' : ∀ p, ¬ MatchAt s (w' ++ q) p := fun p hm => by
        refine hnone (d.length + p) ?_
        rw [← hbytes, hd, List.append_assoc]
        exact (matchAt_append_left s d _ p).mpr hm
      obtain ⟨w'', hsettle⟩ := ih hw' hnone'
      refine ⟨w'', ?_⟩
      rw [List.length_cons, ← Nat.add_assoc, settle_succ hstep, heq]
      exact hsettle
    · have hwin := syncScan_found_window hl hscan
      obtain ⟨rfl, rfl, rfl⟩ := syncScan_found hscan
      refine absurd ?_ (hnone 0)
      rw [← hbytes, hwin]
      exact ⟨rfl, rfl, rfl⟩

/-- The body read puts the queued bytes behind those it has (R188). -/
theorem settle_filling (n : Nat) (rest : List Byte) {bs : List Byte} {buf : UartFrame} {k : Nat} (hlo : 3 ≤ k)
    (hhi : k + bs.length ≤ 9) :
    HostSide.settle (n + bs.length) (filling buf k (bs ++ rest) s) =
      HostSide.settle n (filling (putBytes buf k bs) (k + bs.length) rest s) := by
  induction bs generalizing buf k with
  | nil => rfl
  | cons b bs ih =>
    rw [List.length_cons] at hhi
    have hstep : step (filling buf k (b :: bs ++ rest) s) =
        .next (filling (buf.setByte k b) (k + 1) (bs ++ rest) s) := by
      rw [step_awaiting_uart (s := filling buf k (b :: bs ++ rest) s) hsched ha]
      exact engineWaitUart_body (s := filling buf k (b :: bs ++ rest) s) rfl hlo (by simp [filling]; omega)
    rw [List.length_cons, ← Nat.add_assoc, settle_succ hstep, ih (by omega) (by omega), putBytes,
      Nat.add_right_comm k 1, Nat.add_assoc k]

end

/-! ### The frame is complete -/

theorem length_currentProg_of_readStep {s : State} (h : ReadStep s) : (currentProg s).length = 1 := by
  simp [currentProg, decodeCommand, prog, h.1]

/-- A micro-program of one step ends with it. -/
theorem stepDone_one (s : State) : stepDone 1 s = completed s := stepDone_last (Nat.le_add_left 1 _)

/-- A frame with the current markers ends the read step: with its value, or with ChecksumMismatch (R192). -/
theorem uartResponse_readStep {s : State} {u : UartFrame} (ha : Awaiting .uart s) (hr : ReadStep s)
    (hhead : HasHeader s u) :
    uartResponse u s = .next (if lrcOk u = true then
        completed { s with urxq := s.urxq.tail, rxBuf := u, result := u.body.payload }
      else failed .checksumMismatch { s with urxq := s.urxq.tail, rxBuf := u }) := by
  rw [uartResponse, if_pos (And.intro ha.1 ha.2), currentStep_of_readStep hr, decodeUart_of_header hhead,
    length_currentProg_of_readStep hr]
  cases lrcOk u with
  | true =>
    simp only [if_true, stepDone_one]
    rfl
  | false =>
    simp only [Bool.false_eq_true, if_false]
    rw [completeErr_eq_failed (by decide)]
    rfl

/-- The engine step that takes the tenth byte of the frame (R188, R192). -/
theorem step_lastByte {s : State} {u : UartFrame} {b : Byte} {rest : List Byte} (hsched : s.schedule = [])
    (ha : Awaiting .uart s) (hr : ReadStep s) (hcnt : s.rxCnt = 9) (hq : s.urxq = b :: rest)
    (hframe : s.rxBuf.setByte 9 b = u) (hhead : HasHeader s u) :
    step s = .next (if lrcOk u = true then completed { s with urxq := rest, rxBuf := u, result := u.body.payload }
      else failed .checksumMismatch { s with urxq := rest, rxBuf := u }) := by
  subst hframe
  rw [step_awaiting_uart hsched ha, engineWaitUart_last hq (Nat.le_of_eq hcnt.symm) hhead,
    uartResponse_readStep ha hr hhead, hq]
  rfl

/-! ### The obligations -/

/-- Settles O12: the hunt drops the garbage and takes the header, the body read takes six bytes, and the tenth byte
makes the frame. -/
theorem detectorTakesTheFirstFrame : Obligations.DetectorTakesTheFirstFrame := by
  intro s garbage rest u hsched ha hr hwindow hcnt hsync h0 h1 hq hfirst
  have hu : HasHeader s u := ⟨hsync, h0, h1⟩
  have hfirst' : ∀ p < garbage.length, ¬ MatchAt s (garbage ++ (u.bytes ++ rest)) p := fun p hp hm => by
    refine hfirst p hp ((matchAt_append_right s rest ?_).mp (by rwa [List.append_assoc]))
    simp only [List.length_append, length_uartBytes]
    omega
  have hstart : s = hunting [] (garbage ++ (u.bytes ++ rest)) s := by
    rw [hunting, ← hwindow, ← List.append_assoc, ← hq]
  calc HostSide.settle (garbage.length + 10) s
      = HostSide.settle (7 + (garbage.length + 3 - 0)) (hunting [] (garbage ++ (u.bytes ++ rest)) s) := by
        rw [← hstart]
        congr 1
        omega
    _ = HostSide.settle (1 + ((u.bytes.drop 3).take 6).length)
          (filling (withHeader u s.rxBuf) 3 ((u.bytes.drop 3).take 6 ++ (u.check :: rest)) (hunting [] [] s)) :=
        settle_hunting hsched ha hu hcnt 7 rest (w := []) (Nat.zero_le 2) rfl hfirst'
    _ = HostSide.settle 1 (filling (putBytes (withHeader u s.rxBuf) 3 ((u.bytes.drop 3).take 6)) 9 (u.check :: rest)
          (hunting [] [] s)) :=
        settle_filling (s := hunting [] [] s) hsched ha 1 (u.check :: rest) (Nat.le_refl 3) (Nat.le_refl 9)
    _ = .next _ := settle_succ (n := 0)
        (step_lastByte (s := filling _ 9 (u.check :: rest) (hunting [] [] s)) hsched ha hr rfl rfl
          (putBytes_frame u s.rxBuf) hu)
    _ = .next _ := by
        simp only [completed, failed, filling, hunting]

/-- Settles O13: the hunt takes everything, and the deadline ends the command. -/
theorem garbageEndsInTimeout : Obligations.GarbageEndsInTimeout := by
  intro s hsched ha hr hwindow hcnt htexp hnone
  obtain ⟨w, hsettle⟩ := settle_hunting_all (q := s.urxq) (w := []) hsched ha hcnt 1 (Nat.zero_le 2) hnone
  have hstart : hunting [] s.urxq s = s := by rw [hunting, ← hwindow]
  rw [hstart] at hsettle
  rw [Nat.add_comm, hsettle, settle_succ (n := 0) (step_timeout_uart (s := hunting w [] s) hsched ha rfl htexp)]
  rfl

/-- Settles O14: the body read takes what is queued, and the deadline ends the command. -/
theorem truncatedFrameEndsInTimeout : Obligations.TruncatedFrameEndsInTimeout := by
  intro s hsched ha hr htexp hlo hshort
  have hfill (n : Nat) : HostSide.settle (n + s.urxq.length) s =
      HostSide.settle n (filling (putBytes s.rxBuf s.rxCnt s.urxq) (s.rxCnt + s.urxq.length) [] s) := by
    have hstart : filling s.rxBuf s.rxCnt (s.urxq ++ []) s = s := by rw [List.append_nil]; rfl
    rw [← settle_filling hsched ha n [] hlo (by omega), hstart]
  refine ⟨putBytes s.rxBuf s.rxCnt s.urxq, putBytes s.rxBuf s.rxCnt s.urxq, ?filled, ?bytes, ?timeout⟩
  case filled => exact (congrArg (HostSide.settle · s) (Nat.zero_add _)).symm.trans (hfill 0)
  case bytes => exact bytes_putBytes (by omega)
  case timeout =>
    rw [Nat.add_comm, hfill 1, settle_succ (n := 0) (step_timeout_uart (s := filling _ _ [] s) hsched ha rfl htexp)]
    rfl

end Sys2Proof.Proofs
end

section
/-! The invariant (10_state.md R30 to R49, 41_transport_mux.md R141 to R149): it holds after reset, every step keeps it,
and from it every step has a next state. -/

namespace Sys2Proof.Proofs

open Sys2Proof.Machine Sys2Proof.Claims

/-! ### The current step reads the command, its operands and SEQ only -/

theorem currentProg_congr {s t : State} (hcfg : t.cfg = s.cfg) (hcmd : t.cmd = s.cmd) (h0 : t.arg0 = s.arg0)
    (h1 : t.arg1 = s.arg1) : currentProg t = currentProg s := by
  have hprog : ∀ i, prog t i = prog s i := fun i => by cases i <;> simp only [prog, hcfg, h0, h1]
  simp only [currentProg, hcmd, hprog]

theorem currentStep_congr {s t : State} (hcfg : t.cfg = s.cfg) (hcmd : t.cmd = s.cmd) (h0 : t.arg0 = s.arg0)
    (h1 : t.arg1 = s.arg1) (hseq : t.seq = s.seq) : currentStep t = currentStep s := by
  rw [currentStep, currentStep, currentProg_congr hcfg hcmd h0 h1, hseq]

@[simp] theorem currentProg_send (f : SdoFrame) (s : State) : currentProg (send f s) = currentProg s :=
  currentProg_congr (by simp) (by simp) (by simp) (by simp)

theorem writeSteps_le (op : Byte) : writeSteps op ≤ 4 := by
  unfold writeSteps
  repeat' split
  all_goals omega

/-- What CMD holds decides the kind of the micro-program: none, one read, or writes (R212). -/
theorem currentProg_kinds (s : State) :
    currentProg s = [] ∨ (byteAt s.cmd 0 = 0x10#8 ∧ currentProg s = [.rd (byteAt s.cmd 1)]) ∨
      0 < writeSteps (byteAt s.cmd 0) := by
  by_cases hdef : DefinedOp (byteAt s.cmd 0)
  case neg => exact .inl (by rw [currentProg, decodeCommand_reserved hdef])
  rcases hdef with hop | hop | hop | hop | hop | hop | hop | hop | hop | hop
  case inl | inr.inl => exact .inl (by simp [currentProg, decodeCommand, prog, hop])
  case inr.inr.inl => exact .inr (.inl ⟨hop, by simp [currentProg, decodeCommand, prog, hop]⟩)
  all_goals exact .inr (.inr (by simp [writeSteps, hop]))

theorem length_currentProg_le (s : State) : (currentProg s).length ≤ 4 := by
  rcases currentProg_kinds s with h | ⟨-, h⟩ | h
  · simp [h]
  · simp [h]
  · rw [(currentProg_writes h).1]
    exact writeSteps_le _

/-- The only command that reads is READ. -/
theorem readStep_of_currentStep {s : State} {r : Byte} (h : currentStep s = some (.rd r)) : ReadStep s := by
  rw [currentStep] at h
  rcases currentProg_kinds s with hp | ⟨hop, hp⟩ | hp
  · simp [hp] at h
  · obtain ⟨hlt, -⟩ := List.getElem?_eq_some_iff.mp h
    rw [hp] at hlt
    refine ⟨hop, BitVec.eq_of_toNat_eq ?_⟩
    simpa using hlt
  · obtain ⟨r', v, len, hst⟩ := (currentProg_writes hp).2 _ (List.mem_of_getElem? h)
    cases hst

/-! ### The status of a running command -/

/-- What STATUS, RESULT and ABORTCODE hold while a command executes: no outcome (R30, R49). -/
structure Running (s : State) : Prop where
  phase : s.phase ≠ .idle
  busy : s.busy = true
  done : s.done = false
  err : s.err = false
  kind : s.errKind = none
  errStep : s.errStep = 0#4
  result : s.result = 0#32
  abort : s.abortCode = 0#32
  cmd : s.cmd.extractLsb' 24 8 = 0#8

theorem running_of_statusInv {s : State} (h : StatusInv s) (hphase : s.phase ≠ .idle) : Running s := by
  have hbusy : s.busy = true := by simpa using mt h.idle_iff.mpr hphase
  obtain ⟨hdone, herr, hresult, habort⟩ := h.busy_clear hbusy
  have hkind : s.errKind = none := by simpa [herr] using h.err_kind
  exact ⟨hphase, hbusy, hdone, herr, hkind, h.no_err_step herr, hresult, habort, h.cmd_upper⟩

theorem statusInv_of_running {s : State} (h : Running s) : StatusInv s where
  idle_iff := by simp [h.phase, h.busy]
  busy_clear _ := ⟨h.done, h.err, h.result, h.abort⟩
  err_done herr := by simp [h.err] at herr
  err_kind := by simp [h.err, h.kind]
  no_err_step _ := h.errStep
  abort_code _ := h.abort
  err_step := by simp [h.errStep]
  cmd_upper := h.cmd

theorem running_send {s : State} (f : SdoFrame) (h : Running s) : Running (send f s) where
  phase := by simpa using h.phase
  busy := by simpa using h.busy
  done := by simpa using h.done
  err := by simpa using h.err
  kind := by simpa using h.kind
  errStep := by simpa using h.errStep
  result := by simpa using h.result
  abort := by simpa using h.abort
  cmd := by simpa using h.cmd

/-! ### The queues -/

/-- Taking items off the queues keeps what the connection says of them. -/
theorem queueInv_of_suffix {s t : State} (h : QueueInv s) (hcfg : t.cfg = s.cfg) (htsel : t.tsel = s.tsel)
    (hact : t.tselAct = s.tselAct) (hopen : t.isOpen = s.isOpen) (hu : t.urxq <:+ s.urxq) (hc : t.crxq <:+ s.crxq) :
    QueueInv t where
  closed_empty hclosed := by
    obtain ⟨hsu, hsc⟩ := h.closed_empty (hopen ▸ hclosed)
    exact ⟨List.suffix_nil.mp (hsu ▸ hu), List.suffix_nil.mp (hsc ▸ hc)⟩
  can_empty hcan := List.suffix_nil.mp (h.can_empty (hact ▸ hcan) ▸ hu)
  uart_empty huart := List.suffix_nil.mp (h.uart_empty (hact ▸ huart) ▸ hc)
  open_tsel ho := by rw [hact, htsel, h.open_tsel (hopen ▸ ho)]
  urxq_depth d hd := Nat.le_trans hu.length_le (h.urxq_depth d (hcfg ▸ hd))
  crxq_depth d hd := Nat.le_trans hc.length_le (h.crxq_depth d (hcfg ▸ hd))
  crxq_masked d hd := h.crxq_masked d (hc.subset hd)

theorem queueInv_send {s : State} (f : SdoFrame) (h : QueueInv s) : QueueInv (send f s) :=
  queueInv_of_suffix h (by simp) (by simp) (by simp) (by simp) (by simp) (by simp)

theorem queueInv_takeUart {s : State} {b : Byte} {rest : List Byte} (h : QueueInv s) (hq : s.urxq = b :: rest) :
    QueueInv { s with urxq := rest } :=
  queueInv_of_suffix h rfl rfl rfl rfl (hq ▸ List.suffix_cons b rest) (List.suffix_refl _)

theorem queueInv_takeCan {s : State} {d : CanData} {rest : List CanData} (h : QueueInv s) (hq : s.crxq = d :: rest) :
    QueueInv { s with crxq := rest } :=
  queueInv_of_suffix h rfl rfl rfl rfl (List.suffix_refl _) (hq ▸ List.suffix_cons d rest)

/-- With both queues empty the depths and the masks say nothing, and the transport is that of CTRL.TSEL if open. -/
theorem queueInv_of_empty {s : State} (hu : s.urxq = []) (hc : s.crxq = [])
    (ho : s.isOpen = true → s.tselAct = s.tsel) : QueueInv s where
  closed_empty _ := ⟨hu, hc⟩
  can_empty _ := hu
  uart_empty _ := hc
  open_tsel := ho
  urxq_depth d _ := by simp [hu]
  crxq_depth d _ := by simp [hc]
  crxq_masked d hd := by simp [hc] at hd

/-! ### The engine while idle, issuing and waiting -/

/-- Outside the receive phase its registers are at rest (R142). -/
structure Quiet (s : State) : Prop where
  armed : s.armed = false
  texp : s.texp = false
  rxCnt : s.rxCnt = 0
  syncW : s.syncW = []

theorem quiet_of_engineInv {s : State} (h : EngineInv s) (hphase : s.phase ≠ .wait) : Quiet s := by
  obtain ⟨harmed, htexp, hcnt, hwindow⟩ := h.quiet hphase
  exact ⟨harmed, htexp, hcnt, hwindow⟩

theorem engineInv_of_quiet {s : State} (hphase : s.phase ≠ .wait) (hq : Quiet s)
    (hidle : s.phase = .idle → s.seq = 0#2)
    (hissue : s.phase = .issue → s.seq = 0#2 ∨ s.seq.toNat < (currentProg s).length) : EngineInv s where
  quiet _ := ⟨hq.armed, hq.texp, hq.rxCnt, hq.syncW⟩
  idle_seq := hidle
  issue_seq := hissue
  wait_armed h := absurd h hphase
  wait_can h := absurd h hphase
  wait_uart h := absurd h hphase
  rx_count := .inl hq.rxCnt
  window := by simp [hq.syncW]
  body_window _ := hq.syncW
  body_head h := by simp [hq.rxCnt] at h

theorem engineInv_of_idle {s : State} (hphase : s.phase = .idle) (hq : Quiet s) (hseq : s.seq = 0#2) : EngineInv s :=
  engineInv_of_quiet (by simp [hphase]) hq (fun _ => hseq) (fun h => by simp [hphase] at h)

/-! ### The operations that end a step -/

theorem inv_completeErr {k : ErrKind} {s : State} (hcmd : s.cmd.extractLsb' 24 8 = 0#8) (hq : QueueInv s) :
    Inv (completeErr k s) where
  status :=
    { idle_iff := by simp
      busy_clear := fun h => by simp at h
      err_done := fun _ => ⟨rfl, rfl⟩
      err_kind := by simp
      no_err_step := fun h => by simp at h
      abort_code := fun h => if_neg (by simpa using h)
      err_step := by
        have := s.seq.isLt
        simp
        omega
      cmd_upper := hcmd }
  engine := engineInv_of_idle rfl ⟨rfl, rfl, rfl, rfl⟩ rfl
  queues := queueInv_of_suffix hq rfl rfl rfl rfl (List.suffix_refl _) (List.suffix_refl _)

theorem inv_completeOk {s : State} (herr : s.err = false) (hkind : s.errKind = none) (hstep : s.errStep = 0#4)
    (habort : s.abortCode = 0#32) (hcmd : s.cmd.extractLsb' 24 8 = 0#8) (hq : QueueInv s) : Inv (completeOk s) where
  status :=
    { idle_iff := by simp
      busy_clear := fun h => by simp at h
      err_done := fun h => by simp [herr] at h
      err_kind := by simp [herr, hkind]
      no_err_step := fun _ => hstep
      abort_code := fun _ => habort
      err_step := by simp [hstep]
      cmd_upper := hcmd }
  engine := engineInv_of_idle rfl ⟨rfl, rfl, rfl, rfl⟩ rfl
  queues := queueInv_of_suffix hq rfl rfl rfl rfl (List.suffix_refl _) (List.suffix_refl _)

theorem inv_stepDone {n : Nat} {s : State} (hn : n = (currentProg s).length) (hrun : Running s) (hquiet : Quiet s)
    (hq : QueueInv s) : Inv (stepDone n s) := by
  rcases stepDone_cases n s with ⟨-, h⟩ | ⟨hmore, h⟩
  · rw [h]
    exact inv_completeOk hrun.err hrun.kind hrun.errStep hrun.abort hrun.cmd hq
  · rw [h]
    refine ⟨statusInv_of_running ?running, engineInv_of_quiet nofun ?quiet nofun fun _ => .inr ?seq, ?queues⟩
    case running =>
      exact ⟨nofun, hrun.busy, hrun.done, hrun.err, hrun.kind, hrun.errStep, hrun.result, hrun.abort, hrun.cmd⟩
    case quiet => exact ⟨hquiet.armed, hquiet.texp, hquiet.rxCnt, hquiet.syncW⟩
    case seq =>
      have hprog : currentProg { s with seq := s.seq + 1#2, phase := .issue } = currentProg s :=
        currentProg_congr rfl rfl rfl rfl
      rw [hprog, ← hn]
      simp only [BitVec.toNat_add, BitVec.toNat_ofNat]
      omega
    case queues => exact queueInv_of_suffix hq rfl rfl rfl rfl (List.suffix_refl _) (List.suffix_refl _)

/-- A micro-program of one step ends with its value: RESULT may hold anything then. -/
theorem inv_readDone {s : State} (w : Word) (hrun : Running s) (hq : QueueInv s) :
    Inv (stepDone 1 (endReceive { s with result := w })) := by
  rw [stepDone_last (Nat.le_add_left 1 _)]
  exact inv_completeOk hrun.err hrun.kind hrun.errStep hrun.abort hrun.cmd
    (queueInv_of_suffix hq rfl rfl rfl rfl (List.suffix_refl _) (List.suffix_refl _))

/-! ### The receive phase -/

theorem inv_startReceive {s : State} {st : MicroStep} (hrun : Running s) (hq : QueueInv s) (hopen : s.isOpen = true)
    (hst : currentStep s = some st) (huart : s.tselAct = .uart → ∃ r, st = .rd r) : Inv (startReceive s) := by
  have hst' : currentStep (startReceive s) = some st := (currentStep_congr rfl rfl rfl rfl rfl).trans hst
  refine ⟨statusInv_of_running ?running, ?engine, ?queues⟩
  case running =>
    exact ⟨nofun, hrun.busy, hrun.done, hrun.err, hrun.kind, hrun.errStep, hrun.result, hrun.abort, hrun.cmd⟩
  case queues => exact queueInv_of_suffix hq rfl rfl rfl rfl (List.suffix_refl _) (List.suffix_refl _)
  case engine =>
    exact
      { quiet := fun h => absurd rfl h
        idle_seq := nofun
        issue_seq := nofun
        wait_armed := fun _ => ⟨rfl, hopen, by simp [hst']⟩
        wait_can := fun _ _ => ⟨rfl, rfl⟩
        wait_uart := fun _ h => by
          obtain ⟨r, rfl⟩ := huart h
          exact ⟨r, hst'⟩
        rx_count := .inl rfl
        window := Nat.zero_le 2
        body_window := fun _ => rfl
        body_head := fun h => absurd h (by simp) }

/-- What a step of the UART reception leaves: the buffer, the count and the window may have changed. -/
def received (buf : UartFrame) (k : Nat) (w : List Byte) (q : List Byte) (s : State) : State :=
  { s with rxBuf := buf, rxCnt := k, syncW := w, urxq := q }

theorem inv_received {s : State} {buf : UartFrame} {k : Nat} {w : List Byte} {b : Byte} {q : List Byte} (h : Inv s)
    (hphase : s.phase = .wait) (huart : s.tselAct = .uart) (hq : s.urxq = b :: q)
    (hcnt : k = 0 ∧ w.length ≤ 2 ∨ 3 ≤ k ∧ k ≤ 9 ∧ w = [] ∧ HasHeader s buf) : Inv (received buf k w q s) := by
  have hst : currentStep (received buf k w q s) = currentStep s := currentStep_congr rfl rfl rfl rfl rfl
  have hrun := running_of_statusInv h.status (by simp [hphase])
  refine ⟨statusInv_of_running ?running, ?engine, ?queues⟩
  case running =>
    exact ⟨hrun.phase, hrun.busy, hrun.done, hrun.err, hrun.kind, hrun.errStep, hrun.result, hrun.abort, hrun.cmd⟩
  case queues =>
    exact queueInv_of_suffix (queueInv_takeUart h.queues hq) rfl rfl rfl rfl (List.suffix_refl _) (List.suffix_refl _)
  case engine =>
    exact
      { quiet := fun hne => absurd hphase hne
        idle_seq := fun hp => absurd (hphase.symm.trans hp) nofun
        issue_seq := fun hp => absurd (hphase.symm.trans hp) nofun
        wait_armed := hst ▸ h.engine.wait_armed
        wait_can := fun _ hc => absurd (huart.symm.trans hc) nofun
        wait_uart := hst ▸ h.engine.wait_uart
        rx_count := hcnt.imp (·.1) fun ⟨hlo, hhi, _⟩ => ⟨hlo, hhi⟩
        window := by
          rcases hcnt with ⟨-, hw⟩ | ⟨-, -, rfl, -⟩
          · exact hw
          · exact Nat.zero_le 2
        body_window := fun hlo => by
          rcases hcnt with ⟨rfl, -⟩ | ⟨-, -, hw, -⟩
          · exact absurd hlo (by simp [received])
          · exact hw
        body_head := fun hlo => by
          rcases hcnt with ⟨rfl, -⟩ | ⟨-, -, -, hhead⟩
          · exact absurd hlo (by simp [received])
          · exact hhead }

theorem inv_syncByte {s : State} {b : Byte} {rest : List Byte} (h : Inv s) (hphase : s.phase = .wait)
    (huart : s.tselAct = .uart) (hq : s.urxq = b :: rest) (hcnt : s.rxCnt < 3) :
    Inv (syncByte b { s with urxq := rest }) := by
  have hzero : s.rxCnt = 0 := h.engine.rx_count.resolve_right fun ⟨hlo, _⟩ => by omega
  have hl : (s.syncW ++ [b]).length ≤ 3 := by
    rw [List.length_append]
    exact Nat.succ_le_succ h.engine.window
  rcases syncByte_cases b { s with urxq := rest } with ⟨w, hscan, heq⟩ | ⟨b0, b1, b2, hscan, heq⟩
  · rw [heq]
    exact inv_received (s := s) (k := s.rxCnt) h hphase huart hq
      (.inl ⟨hzero, (syncScan_more_window (s := s) hl hscan).1⟩)
  · rw [heq]
    obtain ⟨rfl, rfl, rfl⟩ := syncScan_found hscan
    exact inv_received (s := s) (w := []) h hphase huart hq (.inr ⟨Nat.le_refl 3, by decide, rfl, rfl, rfl, rfl⟩)

/-- From place 3 on a byte does not touch the header. -/
theorem hasHeader_setByte {s : State} {u : UartFrame} {k : Nat} (b : Byte) (hk : 3 ≤ k) :
    HasHeader s (u.setByte k b) ↔ HasHeader s u := by
  match k, hk with
  | 3, _ | 4, _ | 5, _ | 6, _ | 7, _ | 8, _ | 9, _ => rfl
  | _ + 10, _ => rfl

theorem inv_bodyByte {s : State} {b : Byte} {rest : List Byte} (h : Inv s) (hphase : s.phase = .wait)
    (huart : s.tselAct = .uart) (hq : s.urxq = b :: rest) (hlo : 3 ≤ s.rxCnt) (hhi : s.rxCnt < 9) :
    Inv (bodyByte b { s with urxq := rest }) :=
  inv_received (s := s) (w := s.syncW) (k := s.rxCnt + 1) h hphase huart hq
    (.inr ⟨by omega, hhi, h.engine.body_window hlo, (hasHeader_setByte b hlo).mpr (h.engine.body_head hlo)⟩)

/-! ### Every engine step keeps the invariant -/

theorem queueInv_doOpen {s : State} (h : QueueInv s) : QueueInv (doOpen s) := by
  unfold doOpen
  split
  · exact h
  · exact queueInv_of_empty rfl rfl fun _ => rfl

theorem inv_engineMove {s t : State} (h : Inv s) (hm : EngineMove s t) : Inv t := by
  have hrunning (hp : s.phase ≠ .idle) : Running s := running_of_statusInv h.status hp
  cases hm with
  | waits => exact h
  | opens hphase =>
    have hrun := hrunning (by simp [hphase])
    exact inv_completeOk (by simpa using hrun.err) (by simpa using hrun.kind) (by simpa using hrun.errStep)
      (by simpa using hrun.abort) (by simpa using hrun.cmd) (queueInv_doOpen h.queues)
  | closes hphase =>
    have hrun := hrunning (by simp [hphase])
    exact inv_completeOk hrun.err hrun.kind hrun.errStep hrun.abort hrun.cmd (queueInv_of_empty rfl rfl nofun)
  | refuses | timesOut => exact inv_completeErr h.status.cmd_upper h.queues
  | awaits f st hphase hopen hst huart =>
    refine inv_startReceive (running_send f (hrunning (by simp [hphase]))) (queueInv_send f h.queues)
      (by simpa using hopen) (st := st) ?_ (by simpa using huart)
    rw [← hst]
    exact currentStep_congr (by simp) (by simp) (by simp) (by simp) (by simp)
  | sends f hphase hopen huart hst =>
    have hquiet := quiet_of_engineInv h.engine (by simp [hphase])
    refine inv_stepDone (by simp) (running_send f (hrunning (by simp [hphase]))) ?_ (queueInv_send f h.queues)
    exact ⟨by simpa using hquiet.armed, by simpa using hquiet.texp, by simpa using hquiet.rxCnt,
      by simpa using hquiet.syncW⟩
  | failsCan k d rest buf code hphase hcan hq =>
    exact inv_completeErr h.status.cmd_upper
      (queueInv_of_suffix (queueInv_takeCan h.queues hq) rfl rfl rfl rfl (List.suffix_refl _) (List.suffix_refl _))
  | readsCan d rest buf w r hphase hcan hq hst =>
    have hrun := hrunning (by simp [hphase])
    rw [length_currentProg_of_readStep (readStep_of_currentStep hst)]
    exact inv_readDone (s := { s with crxq := rest, rxBuf := buf }) w
      ⟨hrun.phase, hrun.busy, hrun.done, hrun.err, hrun.kind, hrun.errStep, hrun.result, hrun.abort, hrun.cmd⟩
      (queueInv_of_suffix (queueInv_takeCan h.queues hq) rfl rfl rfl rfl (List.suffix_refl _) (List.suffix_refl _))
  | acknowledged d rest buf hphase hcan hq hst =>
    have hrun := hrunning (by simp [hphase])
    refine inv_stepDone (congrArg List.length (currentProg_congr rfl rfl rfl rfl).symm) ?_ ⟨rfl, rfl, rfl, rfl⟩
      (queueInv_of_suffix (queueInv_takeCan h.queues hq) rfl rfl rfl rfl (List.suffix_refl _) (List.suffix_refl _))
    exact ⟨hrun.phase, hrun.busy, hrun.done, hrun.err, hrun.kind, hrun.errStep, hrun.result, hrun.abort, hrun.cmd⟩
  | hunts b rest hphase huart hq hcnt => exact inv_syncByte h hphase huart hq hcnt
  | fills b rest hphase huart hq hlo hhi => exact inv_bodyByte h hphase huart hq hlo hhi
  | readsUart b rest w r hphase huart hq hst =>
    have hrun := hrunning (by simp [hphase])
    rw [length_currentProg_of_readStep (readStep_of_currentStep hst)]
    exact inv_readDone (s := { s with urxq := rest, rxBuf := s.rxBuf.setByte 9 b, rxCnt := 10 }) w
      ⟨hrun.phase, hrun.busy, hrun.done, hrun.err, hrun.kind, hrun.errStep, hrun.result, hrun.abort, hrun.cmd⟩
      (queueInv_of_suffix (queueInv_takeUart h.queues hq) rfl rfl rfl rfl (List.suffix_refl _) (List.suffix_refl _))
  | failsUart k b rest hphase huart hq =>
    exact inv_completeErr h.status.cmd_upper
      (queueInv_of_suffix (queueInv_takeUart h.queues hq) rfl rfl rfl rfl (List.suffix_refl _) (List.suffix_refl _))

/-! ### What each part of the invariant reads -/

/-- The fields that the status part of the invariant reads. -/
def statusPart (s : State) :=
  (s.phase, s.busy, s.done, s.err, s.errKind, s.errStep, s.result, s.abortCode, s.cmd)

/-- The fields that the engine part of the invariant reads. -/
def enginePart (s : State) :=
  (s.phase, s.armed, s.texp, s.rxCnt, s.syncW, s.seq, s.isOpen, s.tselAct, s.rxBuf, s.umark0, s.umark1, s.cfg, s.cmd,
    s.arg0, s.arg1)

/-- The fields that the queue part of the invariant reads. -/
def queuePart (s : State) := (s.cfg, s.tsel, s.tselAct, s.isOpen, s.urxq, s.crxq)

theorem statusInv_of_eq {s t : State} (h : StatusInv s) (he : statusPart t = statusPart s) : StatusInv t := by
  simp only [statusPart, Prod.mk.injEq] at he
  obtain ⟨hphase, hbusy, hdone, herr, hkind, hstep, hresult, habort, hcmd⟩ := he
  constructor <;> simp only [hphase, hbusy, hdone, herr, hkind, hstep, hresult, habort, hcmd]
  exacts [h.idle_iff, h.busy_clear, h.err_done, h.err_kind, h.no_err_step, h.abort_code, h.err_step, h.cmd_upper]

theorem engineInv_of_eq {s t : State} (h : EngineInv s) (he : enginePart t = enginePart s) : EngineInv t := by
  simp only [enginePart, Prod.mk.injEq] at he
  obtain ⟨hphase, harmed, htexp, hcnt, hwindow, hseq, hopen, hact, hbuf, hm0, hm1, hcfg, hcmd, h0, h1⟩ := he
  have hprog := currentProg_congr hcfg hcmd h0 h1
  have hst := currentStep_congr hcfg hcmd h0 h1 hseq
  constructor <;> simp only [hphase, harmed, htexp, hcnt, hwindow, hseq, hopen, hact, hbuf, hm0, hm1, hprog, hst]
  exacts [h.quiet, h.idle_seq, h.issue_seq, h.wait_armed, h.wait_can, h.wait_uart, h.rx_count, h.window, h.body_window,
    h.body_head]

theorem queueInv_of_eq {s t : State} (h : QueueInv s) (he : queuePart t = queuePart s) : QueueInv t := by
  simp only [queuePart, Prod.mk.injEq] at he
  obtain ⟨hcfg, htsel, hact, hopen, hu, hc⟩ := he
  exact queueInv_of_suffix h hcfg htsel hact hopen (hu ▸ List.suffix_refl _) (hc ▸ List.suffix_refl _)

/-- The invariant is about the block: the events still to come are no part of it. -/
theorem inv_withSchedule {s : State} (h : Inv s) (es : List Event) : Inv { s with schedule := es } :=
  ⟨statusInv_of_eq h.status rfl, engineInv_of_eq h.engine rfl, queueInv_of_eq h.queues rfl⟩

/-! ### Every event keeps the invariant -/

theorem inv_resetOf (p : Params) : Inv (State.resetOf p) where
  status :=
    { idle_iff := by simp [State.resetOf]
      busy_clear := nofun
      err_done := nofun
      err_kind := rfl
      no_err_step := fun _ => rfl
      abort_code := fun _ => rfl
      err_step := by simp [State.resetOf]
      cmd_upper := by simp [State.resetOf] }
  engine := engineInv_of_idle rfl ⟨rfl, rfl, rfl, rfl⟩ rfl
  queues := queueInv_of_empty rfl rfl nofun

/-- Acceptance starts a command on an engine at rest (R211). -/
theorem inv_accept {s : State} (w : Word) (h : Inv s) (hidle : s.busy = false) : Inv (accept w s) := by
  have hquiet := quiet_of_engineInv h.engine (by simp [h.status.idle_iff.mpr hidle])
  refine ⟨statusInv_of_running ?running, ?engine, queueInv_of_eq h.queues rfl⟩
  case running => exact ⟨nofun, rfl, rfl, rfl, rfl, rfl, rfl, rfl, BitVec.extractLsb'_append_eq_left⟩
  case engine =>
    exact engineInv_of_quiet nofun ⟨hquiet.armed, hquiet.texp, hquiet.rxCnt, hquiet.syncW⟩ nofun fun _ => .inl rfl

theorem inv_writeMove {s t : State} {addr : Nat} {w : Word} (h : Inv s) (hm : WriteMove addr w s t) : Inv t := by
  cases hm with
  | ignored => exact h
  | configures hclosed hidle tsel node baud =>
    obtain ⟨hu, hc⟩ := h.queues.closed_empty hclosed
    exact ⟨statusInv_of_eq h.status rfl, engineInv_of_eq h.engine rfl,
      queueInv_of_empty hu hc fun ho => absurd (hclosed.symm.trans ho) nofun⟩
  | prepares hidle time m0 m1 a0 a1 =>
    have hphase := h.status.idle_iff.mpr hidle
    have hquiet := quiet_of_engineInv h.engine (by simp [hphase])
    exact ⟨statusInv_of_eq h.status rfl, engineInv_of_idle hphase
      ⟨hquiet.armed, hquiet.texp, hquiet.rxCnt, hquiet.syncW⟩ (h.engine.idle_seq hphase), queueInv_of_eq h.queues rfl⟩
  | accepts haddr hidle => exact inv_accept w h hidle
  | flags a b c => exact ⟨statusInv_of_eq h.status rfl, engineInv_of_eq h.engine rfl, queueInv_of_eq h.queues rfl⟩

theorem length_lt_of_hasRoom {depth : Option Nat} {n d : Nat} (h : hasRoom depth n = true) (hd : depth = some d) :
    n < d := (hasRoom_iff depth n).mp h d hd

theorem inv_uartRx {s : State} (b : Byte) (h : Inv s) : Inv (uartRx b s) := by
  rcases uartRx_cases b s with ⟨-, heq⟩ | ⟨hopen, huart, hroom, heq⟩ | ⟨hopen, huart, hfull, heq⟩ <;> rw [heq]
  · exact h
  · refine ⟨statusInv_of_eq h.status rfl, engineInv_of_eq h.engine rfl, ?_⟩
    exact
      { closed_empty := fun hclosed => absurd (hopen.symm.trans hclosed) nofun
        can_empty := fun hcan => absurd (huart.symm.trans hcan) nofun
        uart_empty := h.queues.uart_empty
        open_tsel := h.queues.open_tsel
        urxq_depth := fun d hd => by simpa using length_lt_of_hasRoom hroom hd
        crxq_depth := h.queues.crxq_depth
        crxq_masked := h.queues.crxq_masked }
  · exact ⟨statusInv_of_eq h.status rfl, engineInv_of_eq h.engine rfl, queueInv_of_eq h.queues rfl⟩

theorem dlcByte_dlcByte (dlc : BitVec 4) (k : Nat) (b : Byte) : dlcByte dlc k (dlcByte dlc k b) = dlcByte dlc k b := by
  unfold dlcByte
  split <;> rfl

theorem dlcMask_dlcMask (dlc : BitVec 4) (f : SdoFrame) : dlcMask dlc (dlcMask dlc f) = dlcMask dlc f := by
  simp only [dlcMask, dlcByte_dlcByte]

theorem inv_canRx {s : State} (f : CanRxFrame) (h : Inv s) : Inv (canRx f s) := by
  rcases canRx_cases f s with ⟨-, heq⟩ | ⟨hacc, hroom, heq⟩ | ⟨-, -, heq⟩ <;> rw [heq]
  · exact h
  · obtain ⟨hopen, hcan, -, -⟩ := (canAccepts_iff f s).mp hacc
    refine ⟨statusInv_of_eq h.status rfl, engineInv_of_eq h.engine rfl, ?_⟩
    exact
      { closed_empty := fun hclosed => absurd (hopen.symm.trans hclosed) nofun
        can_empty := h.queues.can_empty
        uart_empty := fun huart => absurd (hcan.symm.trans huart) nofun
        open_tsel := h.queues.open_tsel
        urxq_depth := h.queues.urxq_depth
        crxq_depth := fun d hd => by simpa using length_lt_of_hasRoom hroom hd
        crxq_masked := fun d hd => by
          rcases List.mem_append.mp hd with hd | hd
          · exact h.queues.crxq_masked d hd
          · obtain rfl := List.mem_singleton.mp hd
            exact dlcMask_dlcMask f.dlc f.data }
  · exact ⟨statusInv_of_eq h.status rfl, engineInv_of_eq h.engine rfl, queueInv_of_eq h.queues rfl⟩

theorem timerExpire_armed {s : State} (h : s.armed = true ∧ s.texp = false) :
    timerExpire s = { s with texp := true } := if_pos h

theorem timerExpire_not {s : State} (h : ¬ (s.armed = true ∧ s.texp = false)) : timerExpire s = s := if_neg h

theorem inv_timerExpire {s : State} (h : Inv s) : Inv (timerExpire s) := by
  by_cases hc : s.armed = true ∧ s.texp = false
  · rw [timerExpire_armed hc]
    have hquiet (hphase : s.phase ≠ .wait) : False := by
      simpa [(quiet_of_engineInv h.engine hphase).armed] using hc.1
    have hst : currentStep { s with texp := true } = currentStep s := currentStep_congr rfl rfl rfl rfl rfl
    refine ⟨statusInv_of_eq h.status rfl, ?_, queueInv_of_eq h.queues rfl⟩
    exact
      { quiet := fun hphase => (hquiet hphase).elim
        idle_seq := h.engine.idle_seq
        issue_seq := fun hphase => (hquiet (by simp [show s.phase = .issue from hphase])).elim
        wait_armed := hst ▸ h.engine.wait_armed
        wait_can := h.engine.wait_can
        wait_uart := hst ▸ h.engine.wait_uart
        rx_count := h.engine.rx_count
        window := h.engine.window
        body_window := h.engine.body_window
        body_head := h.engine.body_head }
  · rw [timerExpire_not hc]
    exact h

/-! ### From the invariant every engine step has a next state -/

theorem currentProg_ne_nil {s : State} (hdef : DefinedOp (byteAt s.cmd 0)) (hopen : byteAt s.cmd 0 ≠ 0x01#8)
    (hclose : byteAt s.cmd 0 ≠ 0x02#8) : currentProg s ≠ [] := by
  rcases hdef with hop | hop | hop | hop | hop | hop | hop | hop | hop | hop
  case inl => exact absurd hop hopen
  case inr.inl => exact absurd hop hclose
  all_goals simp [currentProg, decodeCommand, prog, hop]

theorem runs_issueCommand {p : List MicroStep} {s : State} (h : s.seq.toNat < p.length) : Runs (issueCommand p s) := by
  unfold issueCommand
  split
  · exact ⟨_, rfl⟩
  split
  · exact ⟨_, rfl⟩
  · rw [List.getElem?_eq_getElem h]
    exact ⟨_, rfl⟩

theorem runs_engineIssue {s : State} (h : EngineInv s) (hphase : s.phase = .issue) : Runs (engineIssue s) := by
  by_cases hdef : DefinedOp (byteAt s.cmd 0)
  case neg => exact ⟨_, engineIssue_reserved hdef⟩
  by_cases hop : byteAt s.cmd 0 = 0x01#8
  · exact ⟨_, engineIssue_open hphase hop⟩
  by_cases hcl : byteAt s.cmd 0 = 0x02#8
  · exact ⟨_, engineIssue_close hphase hcl⟩
  rw [engineIssue_command hdef hop hcl]
  refine runs_issueCommand ?_
  rcases h.issue_seq hphase with hseq | hseq
  · simpa [hseq] using List.length_pos_iff.mpr (currentProg_ne_nil hdef hop hcl)
  · exact hseq

theorem runs_engineWaitCan {s : State} (h : EngineInv s) (hphase : s.phase = .wait) (hcan : s.tselAct = .can) :
    Runs (engineWaitCan s) := by
  cases hq : s.crxq with
  | nil =>
    rw [engineWaitCan, hq]
    cases s.texp <;> exact ⟨_, rfl⟩
  | cons d rest =>
    by_cases hdlc : d.dlc = 8#4
    · obtain ⟨-, -, hst⟩ := h.wait_armed hphase
      rw [engineWaitCan_frame (f := d.data) hphase hcan (by rw [hq, ← hdlc]), canResponse, if_pos ⟨hphase, hcan⟩]
      cases hcur : currentStep s with
      | none => simp [hcur] at hst
      | some st => cases st <;> exact ⟨_, rfl⟩
    · rw [engineWaitCan, hq]
      exact ⟨_, if_neg hdlc⟩

theorem runs_engineWaitUart {s : State} (h : EngineInv s) (hphase : s.phase = .wait) (huart : s.tselAct = .uart) :
    Runs (engineWaitUart s) := by
  cases hq : s.urxq with
  | nil =>
    rw [engineWaitUart, hq]
    cases s.texp <;> exact ⟨_, rfl⟩
  | cons b rest =>
    by_cases hlo : s.rxCnt < 3
    · exact ⟨_, engineWaitUart_hunt hq hlo⟩
    by_cases hhi : s.rxCnt < 9
    · exact ⟨_, engineWaitUart_body hq (by omega) hhi⟩
    have hhead : HasHeader s (s.rxBuf.setByte 9 b) :=
      (hasHeader_setByte b (by decide)).mpr (h.body_head (Nat.le_of_not_lt hlo))
    obtain ⟨r, hst⟩ := h.wait_uart hphase huart
    exact ⟨_, (engineWaitUart_last hq (Nat.le_of_not_lt hhi) hhead).trans
      (uartResponse_readStep ⟨hphase, huart⟩ (readStep_of_currentStep hst) hhead)⟩

theorem runs_engineStep {s : State} (h : EngineInv s) : Runs (engineStep s) := by
  cases hphase : s.phase with
  | idle => exact ⟨_, engineStep_idle s hphase⟩
  | issue => exact engineStep_issue s hphase ▸ runs_engineIssue h hphase
  | wait =>
    cases ht : s.tselAct with
    | can => exact engineStep_wait_can s hphase ht ▸ runs_engineWaitCan h hphase ht
    | uart => exact engineStep_wait_uart s hphase ht ▸ runs_engineWaitUart h hphase ht

/-! ### The obligations -/

/-- Settles O17: every part of the invariant is about fields that reset clears. -/
theorem resetMeetsInvariant : Obligations.ResetMeetsInvariant := ⟨inv_resetOf Config.board, inv_resetOf⟩

/-- Settles O18: every event that a step can take keeps the invariant. -/
theorem stepKeepsInvariant : Obligations.StepKeepsInvariant := by
  intro s t hinv hstep
  cases step_move hstep with
  | engine rest _ hm => exact inv_engineMove (inv_withSchedule hinv rest) hm
  | hostWrite addr w rest _ hm => exact inv_writeMove (inv_withSchedule hinv rest) hm
  | hostRead addr rest _ =>
    have h := inv_withSchedule hinv rest
    exact ⟨statusInv_of_eq h.status rfl, engineInv_of_eq h.engine rfl, queueInv_of_eq h.queues rfl⟩
  | uartRx b rest _ => exact inv_uartRx b (inv_withSchedule hinv rest)
  | canRx f rest _ => exact inv_canRx f (inv_withSchedule hinv rest)
  | timer rest _ => exact inv_timerExpire (inv_withSchedule hinv rest)
  | reset rest _ => exact inv_withSchedule (inv_resetOf s.cfg) rest

/-- Settles O19: an event of the environment always has a next state, and the engine has one by the invariant. -/
theorem everyStepHasANextState : Obligations.EveryStepHasANextState := by
  intro s hinv
  have hengine (hnext : EngineNext s) : Runs (step s) := by
    obtain ⟨rest, hstep⟩ := step_engineNext hnext
    exact hstep ▸ runs_engineStep (inv_withSchedule hinv rest).engine
  cases hs : s.schedule with
  | nil => exact hengine (.inl hs)
  | cons e rest =>
    cases e with
    | engine => exact hengine (.inr (by simp [hs]))
    | hostWrite addr w => exact ⟨_, step_hostWrite hs⟩
    | hostRead addr => exact ⟨_, step_hostRead hs⟩
    | uartRx b => exact ⟨_, step_uartRx hs⟩
    | canRx f => exact ⟨_, step_canRx hs⟩
    | timerExpire => exact ⟨_, step_timerExpire hs⟩
    | reset => exact ⟨_, step_reset hs⟩

end Sys2Proof.Proofs
end

section
/-! What a step leaves alone and what it may change: parameters, traces, error kinds, mode bits (44_host_ops.md R215,
60_exceptions.md R273 to R290), and how a command comes to its end (R222). -/

namespace Sys2Proof.Proofs

open Sys2Proof.Machine Sys2Proof.Claims

/-! ### The registers an engine step leaves alone -/

theorem engineMove_cfg {s t : State} (hm : EngineMove s t) : t.cfg = s.cfg := by
  cases hm <;> simp

theorem engineMove_timeout {s t : State} (hm : EngineMove s t) : t.timeout = s.timeout := by
  cases hm <;> simp

theorem engineMove_schedule {s t : State} (hm : EngineMove s t) : t.schedule = s.schedule := by
  cases hm <;> simp

theorem writeMove_cfg {s t : State} {addr : Nat} {w : Word} (hm : WriteMove addr w s t) : t.cfg = s.cfg := by
  cases hm <;> simp

/-! ### What a step sends -/

/-- One request goes out on the active transport (R132, R133). -/
theorem send_traces (f : SdoFrame) (s : State) :
    (s.tselAct = .can ∧ (send f s).ctx = s.ctx ++ [⟨0b1100#4 ++ s.nodeId, 8#4, f⟩] ∧ (send f s).utx = s.utx) ∨
      (s.tselAct = .uart ∧ (send f s).utx = s.utx ++ wrapped f ∧ (send f s).ctx = s.ctx) := by
  cases ht : s.tselAct with
  | can => exact .inl ⟨rfl, by rw [send_can f s ht, canReqIdOf_eq_append], by rw [send_can f s ht]⟩
  | uart => exact .inr ⟨rfl, by rw [send_uart f s ht, bytes_wrap], by rw [send_uart f s ht]⟩

/-- The engine sends in ISSUE on an open connection only, and then one request (R215). -/
theorem engineMove_traces {s t : State} (hm : EngineMove s t) :
    (t.ctx = s.ctx ∧ t.utx = s.utx) ∨
      (s.phase = .issue ∧ s.isOpen = true ∧ ∃ f : SdoFrame,
        (s.tselAct = .can ∧ t.ctx = s.ctx ++ [⟨0b1100#4 ++ s.nodeId, 8#4, f⟩] ∧ t.utx = s.utx) ∨
        (s.tselAct = .uart ∧ t.utx = s.utx ++ wrapped f ∧ t.ctx = s.ctx)) := by
  cases hm with
  | awaits f st hphase hopen => exact .inr ⟨hphase, hopen, f, send_traces f s⟩
  | sends f hphase hopen => exact .inr ⟨hphase, hopen, f, by simpa using send_traces f s⟩
  | _ => exact .inl (by simp)

theorem writeMove_traces {s t : State} {addr : Nat} {w : Word} (hm : WriteMove addr w s t) :
    t.ctx = s.ctx ∧ t.utx = s.utx := by
  cases hm <;> exact ⟨rfl, rfl⟩

/-! ### Which errors a step raises -/

/-- An engine step raises an error only where it sends nothing, and which one depends on the transport (R273, R275). -/
theorem engineMove_errKind {s t : State} (hm : EngineMove s t) :
    t.errKind = s.errKind ∨ ∃ k, t.errKind = some k ∧ t.ctx = s.ctx ∧ t.utx = s.utx ∧
      (s.tselAct = .can → k ≠ .checksumMismatch) ∧ (s.tselAct = .uart → k ≠ .deviceAbort) ∧
      (s.tselAct = .uart → k = .malformedResponse → 9 ≤ s.rxCnt ∧ ∃ b, ¬ HasHeader s (s.rxBuf.setByte 9 b)) := by
  cases hm with
  | refuses k hphase hk =>
    refine .inr ⟨k, rfl, rfl, rfl, ?_⟩
    rcases hk with rfl | rfl <;> exact ⟨nofun, nofun, nofun⟩
  | timesOut => exact .inr ⟨.timeout, rfl, rfl, rfl, nofun, nofun, nofun⟩
  | failsCan k d rest buf code hphase hcan hq hk =>
    have huart : s.tselAct ≠ .uart := by simp [hcan]
    refine .inr ⟨k, rfl, rfl, rfl, fun _ => ?_, fun h => absurd h huart, fun h => absurd h huart⟩
    rcases hk with rfl | rfl <;> nofun
  | failsUart k b rest hphase huart hq hcnt hk =>
    have hcan : s.tselAct ≠ .can := by simp [huart]
    refine .inr ⟨k, rfl, rfl, rfl, fun h => absurd h hcan, fun _ => ?_, fun _ hmal => ?_⟩
    · rcases hk with rfl | ⟨rfl, -⟩ <;> nofun
    · rcases hk with rfl | ⟨-, hhead⟩
      · cases hmal
      · exact ⟨hcnt, b, hhead⟩
  | _ => exact .inl (by simp)

theorem writeMove_errKind {s t : State} {addr : Nat} {w : Word} (hm : WriteMove addr w s t) :
    t.errKind = s.errKind ∨ t.errKind = none := by
  cases hm with
  | accepts => exact .inr rfl
  | _ => exact .inl rfl

/-- From a state without an error, the events of the host and the environment raise none. -/
theorem stepMove_errKind {s t : State} (hm : StepMove s t) (hnone : s.errKind = none) :
    t.errKind = none ∨ ∃ rest, EngineMove { s with schedule := rest } t := by
  cases hm with
  | engine rest _ h => exact .inr ⟨rest, h⟩
  | hostWrite addr w rest _ h => exact .inl ((writeMove_errKind h).elim (·.trans hnone) id)
  | reset => exact .inl rfl
  | _ => exact .inl (by simpa using hnone)

/-! ### The mode bits -/

theorem doOpen_isOpen (s : State) : (doOpen s).isOpen = true := by
  unfold doOpen
  split
  · assumption
  · rfl

theorem doOpen_tselAct (s : State) : (doOpen s).tselAct = if s.isOpen = true then s.tselAct else s.tsel := by
  unfold doOpen
  split <;> rfl

/-- OPEN and CLOSE alone touch the connection (R287). -/
theorem engineMove_connection {s t : State} (hm : EngineMove s t) :
    (t.isOpen = s.isOpen ∧ t.tselAct = s.tselAct) ∨
      (s.phase = .issue ∧ byteAt s.cmd 0 = 0x01#8 ∧ t.isOpen = true ∧
        t.tselAct = if s.isOpen = true then s.tselAct else s.tsel) ∨
      (s.phase = .issue ∧ byteAt s.cmd 0 = 0x02#8 ∧ t.isOpen = false ∧ t.tselAct = s.tselAct ∧ t.urxq = [] ∧
        t.crxq = []) := by
  cases hm with
  | opens hphase hop => exact .inr (.inl ⟨hphase, hop, doOpen_isOpen s, doOpen_tselAct s⟩)
  | closes hphase hop => exact .inr (.inr ⟨hphase, hop, rfl, rfl, rfl, rfl⟩)
  | _ => exact .inl (by simp)

theorem stepDone_busy (n : Nat) (s : State) :
    (stepDone n s).busy = s.busy ∨
      ((stepDone n s).busy = false ∧ (stepDone n s).done = true ∧ (stepDone n s).phase = .idle) := by
  rcases stepDone_cases n s with ⟨-, h⟩ | ⟨-, h⟩ <;> rw [h]
  · exact .inr ⟨rfl, rfl, rfl⟩
  · exact .inl rfl

/-- The engine changes BUSY only by completing the command (R287). -/
theorem engineMove_busy {s t : State} (hm : EngineMove s t) :
    t.busy = s.busy ∨ (t.busy = false ∧ t.done = true ∧ t.phase = .idle) := by
  cases hm with
  | sends f => simpa using stepDone_busy (currentProg s).length (send f s)
  | readsCan | acknowledged | readsUart => exact stepDone_busy _ _
  | opens | closes | refuses | timesOut | failsCan | failsUart => exact .inr ⟨rfl, rfl, rfl⟩
  | _ => exact .inl (by simp)

theorem writeMove_mode {s t : State} {addr : Nat} {w : Word} (hm : WriteMove addr w s t) :
    t.isOpen = s.isOpen ∧ t.tselAct = s.tselAct ∧ (t.busy = s.busy ∨ addr = 0x14 ∧ t.busy = true) := by
  cases hm with
  | accepts haddr => exact ⟨rfl, rfl, .inr ⟨haddr, rfl⟩⟩
  | _ => exact ⟨rfl, rfl, .inl rfl⟩

/-! ### The end of a command -/

/-- A bound on the engine steps that the command in execution still takes, with every deadline expired: one for each
queued item, one for each step of its micro-program, and one more while a request is still to go out. -/
def work (s : State) : Nat :=
  match s.phase with
  | .idle => 0
  | .issue => 4 - s.seq.toNat + s.urxq.length + s.crxq.length + 1
  | .wait => 4 - s.seq.toNat + s.urxq.length + s.crxq.length

theorem work_le (s : State) : work s ≤ s.urxq.length + s.crxq.length + 8 := by
  unfold work
  split <;> omega

theorem work_idle {s : State} (h : s.phase = .idle) : work s = 0 := by rw [work, h]

theorem work_issue {s : State} (h : s.phase = .issue) :
    work s = 4 - s.seq.toNat + s.urxq.length + s.crxq.length + 1 := by rw [work, h]

theorem work_wait {s : State} (h : s.phase = .wait) : work s = 4 - s.seq.toNat + s.urxq.length + s.crxq.length := by
  rw [work, h]

theorem idle_of_work_eq_zero {s : State} (h : work s = 0) : s.phase = .idle := by
  have := s.seq.isLt
  cases hphase : s.phase with
  | idle => rfl
  | issue =>
    rw [work_issue hphase] at h
    omega
  | wait =>
    rw [work_wait hphase] at h
    omega

/-- The end of a step spends it. -/
theorem work_stepDone_le {n : Nat} (s : State) (hn : n ≤ 4) :
    work (stepDone n s) ≤ 4 - s.seq.toNat + s.urxq.length + s.crxq.length := by
  rcases stepDone_cases n s with ⟨-, h⟩ | ⟨hmore, h⟩ <;> rw [h]
  · exact Nat.zero_le _
  · rw [work_issue rfl]
    simp only [BitVec.toNat_add, BitVec.toNat_ofNat]
    omega

/-- With the deadlines expired an engine step of a command spends some of the bound. -/
theorem engineMove_work {s t : State} (hm : EngineMove s t) (hbusy : s.phase ≠ .idle)
    (htexp : s.phase = .wait → s.texp = true) : work t < work s := by
  have hpos : 0 < work s := Nat.pos_of_ne_zero fun h => hbusy (idle_of_work_eq_zero h)
  have hle := length_currentProg_le s
  cases hm with
  | waits hphase =>
    rcases hphase with hidle | ⟨hwait, hpending⟩
    · exact absurd hidle hbusy
    · simp [htexp hwait] at hpending
  | opens | closes | refuses | timesOut | failsCan | failsUart => exact hpos
  | awaits f st hphase =>
    rw [work_issue hphase, work_wait rfl]
    simp
  | sends f hphase =>
    have h := work_stepDone_le (send f s) hle
    rw [work_issue hphase]
    simp only [send_seq, send_urxq, send_crxq] at h
    omega
  | readsCan d rest buf w r hphase hcan hq =>
    have h := work_stepDone_le (endReceive { s with crxq := rest, rxBuf := buf, result := w }) hle
    rw [work_wait hphase, hq, List.length_cons]
    exact Nat.lt_succ_of_le h
  | acknowledged d rest buf hphase hcan hq =>
    have h := work_stepDone_le (endReceive { s with crxq := rest, rxBuf := buf }) hle
    rw [work_wait hphase, hq, List.length_cons]
    exact Nat.lt_succ_of_le h
  | hunts b rest hphase huart hq =>
    rw [work_wait hphase, work_wait (by simpa using hphase), hq]
    simp
  | fills b rest hphase huart hq =>
    rw [work_wait hphase, work_wait (by simpa using hphase), hq]
    simp
  | readsUart b rest w r hphase huart hq =>
    have h := work_stepDone_le
      (endReceive { s with urxq := rest, rxBuf := s.rxBuf.setByte 9 b, rxCnt := 10, result := w }) hle
    rw [work_wait hphase, hq, List.length_cons]
    simp only [endReceive_seq, endReceive_urxq, endReceive_crxq] at h
    omega

/-- With TIMEOUT = 0 a receive phase starts expired (R23), and no engine step takes that back. -/
theorem engineMove_texp {s t : State} (hm : EngineMove s t) (hzero : s.timeout = 0#32)
    (htexp : s.phase = .wait → s.texp = true) (hwait : t.phase = .wait) : t.texp = true := by
  have hdone (n : Nat) (r : State) : (stepDone n r).phase ≠ .wait := by
    rcases stepDone_cases n r with ⟨-, h⟩ | ⟨-, h⟩ <;> rw [h] <;> nofun
  cases hm with
  | waits => exact htexp hwait
  | awaits f st => exact decide_eq_true (by simpa using hzero)
  | hunts b rest hphase | fills b rest hphase => simpa using htexp hphase
  | sends | readsCan | acknowledged | readsUart => exact absurd hwait (hdone _ _)
  | _ => cases hwait

/-- As many engine steps as the bound says bring the command to its end. -/
theorem settle_completes (n : Nat) {s : State} (hinv : Inv s) (hsched : s.schedule = []) (hzero : s.timeout = 0#32)
    (htexp : s.phase = .wait → s.texp = true) (hwork : work s ≤ n) :
    ∃ t, HostSide.settle n s = .next t ∧ t.phase = .idle ∧ t.busy = false := by
  induction n generalizing s with
  | zero =>
    have hidle := idle_of_work_eq_zero (Nat.le_zero.mp hwork)
    exact ⟨s, rfl, hidle, hinv.status.idle_iff.mp hidle⟩
  | succ n ih =>
    obtain ⟨t, hstep⟩ := everyStepHasANextState s hinv
    have hengine : engineStep s = .next t := step_engine s hsched ▸ hstep
    have hm := engineStep_move hengine
    have hspent : work t ≤ n := by
      by_cases hidle : s.phase = .idle
      · obtain rfl : s = t := Host.Outcome.next.inj ((engineStep_idle s hidle).symm.trans hengine)
        rw [work_idle hidle]
        exact Nat.zero_le n
      · have := engineMove_work hm hidle htexp
        omega
    rw [settle_succ hstep]
    exact ih (stepKeepsInvariant s t hinv hstep) ((engineMove_schedule hm).trans hsched)
      ((engineMove_timeout hm).trans hzero) (engineMove_texp hm hzero htexp) hspent

/-! ### The obligations -/

/-- Settles O20: the bound on the remaining work starts below the number of steps granted. -/
theorem everyCommandCompletes : Obligations.EveryCommandCompletes :=
  fun s hinv hsched hzero htexp => settle_completes _ hinv hsched hzero htexp (work_le s)

/-- Settles O21: no event writes the parameters, and reset starts from them. -/
theorem stepKeepsParameters : Obligations.StepKeepsParameters := by
  intro s t hstep
  cases step_move hstep with
  | engine rest _ hm => exact engineMove_cfg (s := { s with schedule := rest }) hm
  | hostWrite addr w rest _ hm => exact writeMove_cfg (s := { s with schedule := rest }) hm
  | reset => rfl
  | _ => simp

/-- Settles O22: only the engine sends, and reset, which restarts the traces, is excluded. -/
theorem onlyOpenIssueStepsTransmit : Obligations.OnlyOpenIssueStepsTransmit := by
  intro s t hreset hstep
  cases step_move hstep with
  | engine rest hnext hm =>
    exact (engineMove_traces hm).imp id fun ⟨hphase, hopen, hsent⟩ => ⟨hnext, hphase, hopen, hsent⟩
  | hostWrite addr w rest _ hm => exact .inl (writeMove_traces (s := { s with schedule := rest }) hm)
  | reset rest hs => exact absurd (by simp [hs]) hreset
  | _ => exact .inl (by simp)

/-- Settles O23: the engine step that raises the error sends nothing. -/
theorem refusedRequestsSendNothing : Obligations.RefusedRequestsSendNothing := by
  intro s t hreset hnone hstep hkind
  rcases stepMove_errKind (step_move hstep) hnone with hclear | ⟨rest, hm⟩
  · simp [hclear] at hkind
  · rcases engineMove_errKind hm with hsame | ⟨k, -, hctx, hutx, -⟩
    · simp [hsame, hnone] at hkind
    · exact ⟨hctx, hutx⟩

/-- Settles O24: on UART the header that the detector found is still in the buffer when the frame is judged. -/
theorem errorKindsByTransport : Obligations.ErrorKindsByTransport := by
  intro s t hinv hnone hstep
  rcases stepMove_errKind (step_move hstep) hnone with hclear | ⟨rest, hm⟩
  · simp [hclear]
  rcases engineMove_errKind hm with hsame | ⟨k, hk, -, -, hcan, habort, hmalformed⟩
  · simp [hsame, hnone]
  rw [hk]
  refine ⟨fun huart => ⟨fun h => ?_, fun h => habort huart (Option.some.inj h)⟩,
    fun ht h => hcan ht (Option.some.inj h)⟩
  obtain ⟨hcnt, b, hhead⟩ := hmalformed huart (Option.some.inj h)
  exact hhead ((hasHeader_setByte b (by decide)).mpr (hinv.engine.body_head (Nat.le_trans (by decide) hcnt)))

/-- Settles O25: the connection changes by OPEN and CLOSE, BUSY by a CMD write and by completion. -/
theorem modeTransitions : Obligations.ModeTransitions := by
  intro s t hreset hstep
  have hunchanged (hopen : t.isOpen = s.isOpen) (hact : t.tselAct = s.tselAct) (hbusy : t.busy = s.busy) :
      (s.isOpen = false → t.isOpen = true → EngineNext s ∧ s.phase = .issue ∧ byteAt s.cmd 0 = 0x01#8) ∧
      (s.isOpen = true → t.isOpen = false →
        EngineNext s ∧ s.phase = .issue ∧ byteAt s.cmd 0 = 0x02#8 ∧ t.urxq = [] ∧ t.crxq = []) ∧
      (t.tselAct ≠ s.tselAct →
        EngineNext s ∧ s.phase = .issue ∧ byteAt s.cmd 0 = 0x01#8 ∧ s.isOpen = false ∧ t.tselAct = s.tsel) ∧
      (s.busy = false → t.busy = true → ∃ w, s.schedule.head? = some (.hostWrite 0x14 w)) ∧
      (s.busy = true → t.busy = false → t.done = true ∧ t.phase = .idle) := by
    simp +contextual [hopen, hact, hbusy]
  cases step_move hstep with
  | engine rest hnext hm =>
    have hbusy := engineMove_busy hm
    refine ⟨fun hs ht => ?opened, fun hs ht => ?closed, fun hne => ?selected, fun hs ht => ?started,
      fun hs ht => ?ended⟩
    case opened =>
      rcases engineMove_connection hm with ⟨h, -⟩ | ⟨hphase, hop, -⟩ | ⟨-, -, h, -⟩
      · simp [h, hs] at ht
      · exact ⟨hnext, hphase, hop⟩
      · simp [h] at ht
    case closed =>
      rcases engineMove_connection hm with ⟨h, -⟩ | ⟨-, -, h, -⟩ | ⟨hphase, hop, -, -, hu, hc⟩
      · simp [h, hs] at ht
      · simp [h] at ht
      · exact ⟨hnext, hphase, hop, hu, hc⟩
    case selected =>
      rcases engineMove_connection hm with ⟨-, h⟩ | ⟨hphase, hop, -, h⟩ | ⟨-, -, -, h, -⟩
      · exact absurd h hne
      · cases hs : s.isOpen with
        | true => exact absurd (by simpa [hs] using h) hne
        | false => exact ⟨hnext, hphase, hop, rfl, by simpa [hs] using h⟩
      · exact absurd h hne
    case started => rcases hbusy with h | ⟨h, -⟩ <;> simp [h, hs] at ht
    case ended =>
      rcases hbusy with h | ⟨-, hdone, hphase⟩
      · simp [h, hs] at ht
      · exact ⟨hdone, hphase⟩
  | hostWrite addr w rest hs hm =>
    obtain ⟨hopen, hact, hbusy | ⟨rfl, hbusy⟩⟩ := writeMove_mode hm
    · exact hunchanged hopen hact hbusy
    · have hopen : t.isOpen = s.isOpen := hopen
      have hact : t.tselAct = s.tselAct := hact
      simp +contextual [hopen, hact, hbusy, hs]
  | reset rest hs => exact absurd (by simp [hs]) hreset
  | _ => exact hunchanged (by simp) (by simp) (by simp)

end Sys2Proof.Proofs
end

section
/-! The sticky flags are read by nothing but a host read (10_state.md R33, 60_exceptions.md R290): every operation
commutes with setting them. -/

namespace Sys2Proof.Proofs

open Sys2Proof.Machine Sys2Proof.Claims

/-- A state with other sticky flags. -/
def withSticky (a b c : Bool) (s : State) : State := { s with cmdOvr := a, urxOvr := b, crxOvr := c }

/-- An outcome with other sticky flags in its next state. -/
def outcomeWithSticky (a b c : Bool) : Result → Result
  | .next s => .next (withSticky a b c s)
  | .fault r => .fault r
  | .refused r => .refused r

theorem eraseStickyOutcome_withSticky (a b c : Bool) (r : Result) :
    eraseStickyOutcome (outcomeWithSticky a b c r) = eraseStickyOutcome r := by
  cases r <;> rfl

section

variable (a b c : Bool)

/-! ### Issuing -/

theorem stepDone_withSticky (n : Nat) (s : State) :
    stepDone n (withSticky a b c s) = withSticky a b c (stepDone n s) := by
  by_cases h : n ≤ s.seq.toNat + 1
  · rw [stepDone_last h, stepDone_last (s := withSticky a b c s) h]
    rfl
  · rw [stepDone_more h, stepDone_more (s := withSticky a b c s) h]
    rfl

theorem send_withSticky (f : SdoFrame) (s : State) :
    send f (withSticky a b c s) = withSticky a b c (send f s) := by
  cases ht : s.tselAct with
  | can =>
    rw [send_can f s ht, send_can f (withSticky a b c s) ht]
    rfl
  | uart =>
    rw [send_uart f s ht, send_uart f (withSticky a b c s) ht]
    rfl

theorem issueWrite_withSticky (n : Nat) (f : SdoFrame) (s : State) :
    issueWrite n f (withSticky a b c s) = withSticky a b c (issueWrite n f s) := by
  cases ht : s.tselAct with
  | can =>
    rw [issueWrite_can n f s ht, issueWrite_can n f (withSticky a b c s) ht, send_withSticky]
    rfl
  | uart =>
    rw [issueWrite_uart n f s ht, issueWrite_uart n f (withSticky a b c s) ht, send_withSticky, stepDone_withSticky]

theorem issueStep_withSticky (n : Nat) (st : MicroStep) (s : State) :
    issueStep n st (withSticky a b c s) = withSticky a b c (issueStep n st s) := by
  have hod : (withSticky a b c s).cfg.od = s.cfg.od := rfl
  cases st with
  | rd r =>
    rw [issueStep, issueStep, hod]
    cases s.cfg.od.lookup r with
    | none => rfl
    | some e =>
      simp only [issueRead, send_withSticky]
      rfl
  | wr r v len =>
    rw [issueStep, issueStep, hod]
    cases s.cfg.od.lookup r with
    | none => rfl
    | some e =>
      cases WriteLen.ofByte? len with
      | none => rfl
      | some w => simp only [issueWrite_withSticky]

theorem issueCommand_withSticky (p : List MicroStep) (s : State) :
    issueCommand p (withSticky a b c s) = outcomeWithSticky a b c (issueCommand p s) := by
  have hphase : (withSticky a b c s).phase = s.phase := rfl
  have hopen : (withSticky a b c s).isOpen = s.isOpen := rfl
  have hseq : (withSticky a b c s).seq = s.seq := rfl
  rw [issueCommand, issueCommand, hphase, hopen, hseq]
  split
  · rfl
  split
  · rfl
  split
  · rfl
  · rw [issueStep_withSticky]
    rfl

theorem currentProg_withSticky (s : State) : currentProg (withSticky a b c s) = currentProg s :=
  currentProg_congr rfl rfl rfl rfl

theorem currentStep_withSticky (s : State) : currentStep (withSticky a b c s) = currentStep s :=
  currentStep_congr rfl rfl rfl rfl rfl

theorem doOpen_withSticky (s : State) : doOpen (withSticky a b c s) = withSticky a b c (doOpen s) := by
  rw [doOpen, doOpen, apply_ite (withSticky a b c)]
  rfl

theorem engineIssue_withSticky {s : State} (hphase : s.phase = .issue) :
    engineIssue (withSticky a b c s) = outcomeWithSticky a b c (engineIssue s) := by
  have hphase' : (withSticky a b c s).phase = .issue := hphase
  by_cases hdef : DefinedOp (byteAt s.cmd 0)
  case neg =>
    rw [engineIssue_reserved hdef, engineIssue_reserved (s := withSticky a b c s) hdef]
    rfl
  by_cases hop : byteAt s.cmd 0 = 0x01#8
  · rw [engineIssue_open hphase hop, engineIssue_open hphase' hop, doOpen_withSticky]
    rfl
  by_cases hcl : byteAt s.cmd 0 = 0x02#8
  · rw [engineIssue_close hphase hcl, engineIssue_close hphase' hcl]
    rfl
  rw [engineIssue_command hdef hop hcl, engineIssue_command (s := withSticky a b c s) hdef hop hcl,
    currentProg_withSticky, issueCommand_withSticky]

/-! ### Receiving -/

theorem canResponse_withSticky {f : SdoFrame} {s : State} (hphase : s.phase = .wait) (hcan : s.tselAct = .can) :
    canResponse f (withSticky a b c s) = outcomeWithSticky a b c (canResponse f s) := by
  rw [canResponse, canResponse, if_pos ⟨hphase, hcan⟩, if_pos (And.intro hphase hcan), currentStep_withSticky,
    currentProg_withSticky]
  cases currentStep s with
  | none => rfl
  | some st =>
    cases st with
    | rd r =>
      cases decodeResponse f with
      | value w => exact congrArg _ (stepDone_withSticky a b c _ (endReceive { takeCanFrame f s with result := w }))
      | abort code => rfl
      | malformed => rfl
    | wr r v n =>
      have hwack : (withSticky a b c s).cfg.wack = s.cfg.wack := rfl
      rw [hwack]
      cases classifyWrite s.cfg.wack f with
      | acknowledged => exact congrArg _ (stepDone_withSticky a b c _ (endReceive (takeCanFrame f s)))
      | abort code => rfl
      | malformed => rfl

theorem engineWaitCan_withSticky {s : State} (hphase : s.phase = .wait) (hcan : s.tselAct = .can) :
    engineWaitCan (withSticky a b c s) = outcomeWithSticky a b c (engineWaitCan s) := by
  have hqueue : (withSticky a b c s).crxq = s.crxq := rfl
  cases hq : s.crxq with
  | nil =>
    have htexp : (withSticky a b c s).texp = s.texp := rfl
    rw [engineWaitCan, engineWaitCan, hqueue, hq, htexp]
    cases s.texp <;> rfl
  | cons d rest =>
    by_cases hdlc : d.dlc = 8#4
    · have hd : s.crxq = ⟨8#4, d.data⟩ :: rest := by rw [hq, ← hdlc]
      rw [engineWaitCan_frame hphase hcan hd, engineWaitCan_frame (s := withSticky a b c s) hphase hcan hd,
        canResponse_withSticky a b c hphase hcan]
    · rw [engineWaitCan, engineWaitCan, hqueue, hq]
      simp only [if_neg hdlc]
      rfl

theorem syncByte_withSticky (x : Byte) (s : State) :
    syncByte x (withSticky a b c s) = withSticky a b c (syncByte x s) := by
  have hscan : syncScan (withSticky a b c s).umark0 (withSticky a b c s).umark1 ((withSticky a b c s).syncW ++ [x]) =
      syncScan s.umark0 s.umark1 (s.syncW ++ [x]) := rfl
  rw [syncByte, syncByte, hscan]
  cases syncScan s.umark0 s.umark1 (s.syncW ++ [x]) <;> rfl

theorem uartResponse_withSticky {u : UartFrame} {s : State} (hphase : s.phase = .wait) (huart : s.tselAct = .uart) :
    uartResponse u (withSticky a b c s) = outcomeWithSticky a b c (uartResponse u s) := by
  have hdecode : decodeUart (withSticky a b c s).umark0 (withSticky a b c s).umark1 u =
      decodeUart s.umark0 s.umark1 u := rfl
  rw [uartResponse, uartResponse, if_pos ⟨hphase, huart⟩, if_pos (And.intro hphase huart), currentStep_withSticky,
    currentProg_withSticky, hdecode]
  cases currentStep s with
  | none => rfl
  | some st =>
    cases st with
    | rd r =>
      cases decodeUart s.umark0 s.umark1 u with
      | ok w =>
        exact congrArg _ (stepDone_withSticky a b c _
          (endReceive { s with urxq := s.urxq.tail, rxBuf := u, rxCnt := 10, result := w }))
      | error k => rfl
    | wr r v n => rfl

theorem engineWaitUart_withSticky {s : State} (hphase : s.phase = .wait) (huart : s.tselAct = .uart) :
    engineWaitUart (withSticky a b c s) = outcomeWithSticky a b c (engineWaitUart s) := by
  cases hq : s.urxq with
  | nil =>
    have hqueue : (withSticky a b c s).urxq = s.urxq := rfl
    have htexp : (withSticky a b c s).texp = s.texp := rfl
    rw [engineWaitUart, engineWaitUart, hqueue, hq, htexp]
    cases s.texp <;> rfl
  | cons x rest =>
    have hq' : (withSticky a b c s).urxq = x :: rest := hq
    by_cases hlo : s.rxCnt < 3
    · rw [engineWaitUart_hunt hq hlo, engineWaitUart_hunt hq' hlo]
      exact congrArg _ (syncByte_withSticky a b c x { s with urxq := rest })
    by_cases hhi : s.rxCnt < 9
    · rw [engineWaitUart_body hq (Nat.le_of_not_lt hlo) hhi, engineWaitUart_body hq' (Nat.le_of_not_lt hlo) hhi]
      rfl
    have hcnt : 9 ≤ s.rxCnt := Nat.le_of_not_lt hhi
    by_cases hhead : HasHeader s (s.rxBuf.setByte 9 x)
    · rw [engineWaitUart_last hq hcnt hhead, engineWaitUart_last hq' hcnt hhead]
      exact uartResponse_withSticky a b c hphase huart
    · rw [engineWaitUart_badMarkers hq hcnt hhead, engineWaitUart_badMarkers hq' hcnt hhead]
      rfl

theorem engineStep_withSticky (s : State) :
    engineStep (withSticky a b c s) = outcomeWithSticky a b c (engineStep s) := by
  have hphase' : (withSticky a b c s).phase = s.phase := rfl
  have hact' : (withSticky a b c s).tselAct = s.tselAct := rfl
  cases hphase : s.phase with
  | idle =>
    rw [engineStep_idle s hphase, engineStep_idle _ (hphase'.trans hphase)]
    rfl
  | issue =>
    rw [engineStep_issue s hphase, engineStep_issue _ (hphase'.trans hphase), engineIssue_withSticky a b c hphase]
  | wait =>
    cases hact : s.tselAct with
    | can =>
      rw [engineStep_wait_can s hphase hact, engineStep_wait_can _ (hphase'.trans hphase) (hact'.trans hact),
        engineWaitCan_withSticky a b c hphase hact]
    | uart =>
      rw [engineStep_wait_uart s hphase hact, engineStep_wait_uart _ (hphase'.trans hphase) (hact'.trans hact),
        engineWaitUart_withSticky a b c hphase hact]

/-! ### Events: the flags may also be set or cleared -/

theorem eraseSticky_hostWrite (addr : Nat) (w : Word) (s : State) :
    eraseSticky (hostWrite addr w (withSticky a b c s)) = eraseSticky (hostWrite addr w s) := by
  simp only [hostWrite, apply_ite eraseSticky]
  rfl

theorem eraseSticky_uartRx (x : Byte) (s : State) :
    eraseSticky (uartRx x (withSticky a b c s)) = eraseSticky (uartRx x s) := by
  simp only [uartRx, apply_ite eraseSticky]
  rfl

theorem eraseSticky_canRx (f : CanRxFrame) (s : State) :
    eraseSticky (canRx f (withSticky a b c s)) = eraseSticky (canRx f s) := by
  simp only [canRx, apply_ite eraseSticky]
  rfl

theorem eraseSticky_timerExpire (s : State) :
    eraseSticky (timerExpire (withSticky a b c s)) = eraseSticky (timerExpire s) := by
  by_cases h : s.armed = true ∧ s.texp = false
  · rw [timerExpire_armed h, timerExpire_armed (s := withSticky a b c s) h]
    rfl
  · rw [timerExpire_not h, timerExpire_not (s := withSticky a b c s) h]
    rfl

end

/-! ### The obligation -/

/-- Settles O26: the engine commutes with setting the flags, and the events do up to the flags themselves. -/
theorem stickyFlagsChangeNoOutcome : Obligations.StickyFlagsChangeNoOutcome := by
  intro s a b c hread
  have hengine (es : List Event) (r : State) (hr : withSticky a b c { s with schedule := es } = r) :
      eraseStickyOutcome (engineStep r) = eraseStickyOutcome (engineStep { s with schedule := es }) := by
    rw [← hr, engineStep_withSticky, eraseStickyOutcome_withSticky]
  have hnext {x y : State} (h : eraseSticky x = eraseSticky y) :
      eraseStickyOutcome (.next x) = eraseStickyOutcome (.next y) := congrArg Host.Outcome.next h
  change eraseStickyOutcome (step (withSticky a b c s)) = _
  have hsched' : (withSticky a b c s).schedule = s.schedule := rfl
  cases hs : s.schedule with
  | nil =>
    rw [step_engine s hs, step_engine _ (hsched'.trans hs)]
    exact hengine s.schedule _ rfl
  | cons e rest =>
    have hs' := hsched'.trans hs
    cases e with
    | engine =>
      rw [step_engineEvent hs, step_engineEvent hs']
      exact hengine rest _ rfl
    | hostWrite addr w =>
      rw [step_hostWrite hs, step_hostWrite hs']
      exact hnext (eraseSticky_hostWrite a b c addr w { s with schedule := rest })
    | hostRead addr => exact absurd (by simp [hs]) (hread addr)
    | uartRx x =>
      rw [step_uartRx hs, step_uartRx hs']
      exact hnext (eraseSticky_uartRx a b c x { s with schedule := rest })
    | canRx f =>
      rw [step_canRx hs, step_canRx hs']
      exact hnext (eraseSticky_canRx a b c f { s with schedule := rest })
    | timerExpire =>
      rw [step_timerExpire hs, step_timerExpire hs']
      exact hnext (eraseSticky_timerExpire a b c { s with schedule := rest })
    | reset =>
      rw [step_reset hs, step_reset hs']
      rfl

end Sys2Proof.Proofs
end

section
/-! The engine step in ISSUE: the commands and the request frames on an open connection (44_host_ops.md R213 to R219,
45_motor_state_controller.md R230 to R241). -/

namespace Sys2Proof.Proofs

open Sys2Proof.Machine Sys2Proof.Claims

/-! ### The statements' states of sending are the model's operations -/

theorem send_eq_sentCan {s : State} (f : SdoFrame) (h : s.tselAct = .can) : send f s = sentCan f s := by
  rw [send_can f s h, canReqIdOf_eq_append]
  rfl

theorem send_eq_sentUart {s : State} (f : SdoFrame) (h : s.tselAct = .uart) : send f s = sentUart f s :=
  send_uart f s h

theorem issueRead_can {s : State} (f : SdoFrame) (hs : Issuing .can s) :
    issueRead f s = awaiting (sentCan f s) := congrArg startReceive (send_eq_sentCan f hs.2.2)

theorem issueRead_uart {s : State} (f : SdoFrame) (hs : Issuing .uart s) :
    issueRead f s = awaiting (sentUart f s) := congrArg startReceive (send_eq_sentUart f hs.2.2)

theorem issueWrite_awaiting {s : State} (n : Nat) (f : SdoFrame) (hs : Issuing .can s) :
    issueWrite n f s = awaiting (sentCan f s) :=
  (issueWrite_can n f s hs.2.2).trans (issueRead_can f hs)

theorem issueWrite_stepDone {s : State} (n : Nat) (f : SdoFrame) (hs : Issuing .uart s) :
    issueWrite n f s = stepDone n (sentUart f s) := by
  rw [issueWrite_uart n f s hs.2.2, send_eq_sentUart f hs.2.2]

/-- A write step on UART ends when its request is out; the command completes exactly after its last (R184, R213). -/
theorem stepDone_writeStep {s : State} (hw : WriteStep s) :
    stepDone (writeSteps (byteAt s.cmd 0)) s = afterUartWrite s := by
  have hw : s.seq.toNat < writeSteps (byteAt s.cmd 0) := hw
  by_cases hlast : s.seq.toNat + 1 = writeSteps (byteAt s.cmd 0)
  · rw [afterUartWrite, if_pos hlast, stepDone_last (by omega)]
    rfl
  · rw [afterUartWrite, if_neg hlast, stepDone_more (by omega)]

/-! ### Entries and lengths -/

theorem lookup_eq_getElem? (t : OdTable) (r : Byte) : t.lookup r = (entries t)[r.toNat]? := by
  by_cases h : r.toNat < 15
  · have hentry : ∀ k < 15, t.lookup (BitVec.ofNat 8 k) = (entries t)[k]? := by
      intro k hk
      interval_cases k <;> rfl
    simpa using hentry r.toNat h
  · rw [lookup_reserved t (Nat.le_of_not_lt h), List.getElem?_eq_none (Nat.le_of_not_lt h)]

theorem ofByte?_lenByte (n : WriteLen) : WriteLen.ofByte? (lenByte n) = some n := by
  cases n <;> rfl

/-- The length check on a length hint (R126, R163). -/
theorem ofByte?_hint (e : OdEntry) : WriteLen.ofByte? (e.len.setWidth 8) = hintLen e := by
  have hlen : ∀ l : BitVec 3, WriteLen.ofByte? (l.setWidth 8) =
      if l = 1#3 then some .one else if l = 2#3 then some .two else if l = 4#3 then some .four else none := by decide
  exact hlen e.len

theorem encodeWrite_eq_writeRequest (e : OdEntry) (v : Word) (n : WriteLen) :
    encodeWrite e.index e.sub v n = writeRequest e v n := by
  cases n <;> rfl

theorem hinted_of_lookup {t : OdTable} {r : Byte} {e : OdEntry} (v : Word) (h : t.lookup r = some e) :
    hinted t r v = .wr r v (e.len.setWidth 8) := by
  rw [hinted, h]

/-! ### One step of a micro-program -/

theorem issueStep_rd {s : State} {r : Byte} {e : OdEntry} (n : Nat) (h : s.cfg.od.lookup r = some e) :
    issueStep n (.rd r) s = issueRead (readRequest e) s := by
  simp only [issueStep, h]
  rfl

theorem issueStep_wr {s : State} {r len : Byte} {e : OdEntry} {w : WriteLen} (n : Nat) (v : Word)
    (h : s.cfg.od.lookup r = some e) (hw : WriteLen.ofByte? len = some w) :
    issueStep n (.wr r v len) s = issueWrite n (writeRequest e v w) s := by
  simp only [issueStep, h, hw, encodeWrite_eq_writeRequest]

theorem issueStep_hinted {s : State} {r : Byte} {e : OdEntry} {w : WriteLen} (n : Nat) (v : Word)
    (h : s.cfg.od.lookup r = some e) (hw : hintLen e = some w) :
    issueStep n (hinted s.cfg.od r v) s = issueWrite n (writeRequest e v w) s := by
  rw [hinted_of_lookup v h, issueStep_wr n v h ((ofByte?_hint e).trans hw)]

/-- A hint that is no length refuses the step (R126, R241). -/
theorem issueStep_hinted_bad {s : State} {r : Byte} {e : OdEntry} (n : Nat) (v : Word)
    (h : s.cfg.od.lookup r = some e) (hw : hintLen e = none) :
    issueStep n (hinted s.cfg.od r v) s = failed .usageError s := by
  rw [hinted_of_lookup v h, issueStep_wr_reserved (.inr ((ofByte?_hint e).trans hw))]

theorem issueCommand_of_step {t : Transport} {p : List MicroStep} {s : State} {st : MicroStep} (hs : Issuing t s)
    (hst : p[s.seq.toNat]? = some st) : issueCommand p s = .next (issueStep p.length st s) := by
  obtain ⟨hphase, hopen, -⟩ := hs
  simp [issueCommand, hphase, hopen, hst]

section

variable {p : List MicroStep} {s : State} {r : Byte} {v : Word} {e : OdEntry} {n : WriteLen}
  (hst : p[s.seq.toNat]? = some (hinted s.cfg.od r v)) (hr : s.cfg.od.lookup r = some e) (hn : hintLen e = some n)

include hst hr hn

/-- A motor command's step on CAN: the write goes out and its acknowledgement is awaited. -/
theorem issueCommand_hinted_can (hs : Issuing .can s) :
    issueCommand p s = .next (awaiting (sentCan (writeRequest e v n) s)) := by
  rw [issueCommand_of_step hs hst, issueStep_hinted p.length v hr hn, issueWrite_awaiting p.length _ hs]

/-- A motor command's step on UART: the write goes out and the step is over. -/
theorem issueCommand_hinted_uart (hs : Issuing .uart s) :
    issueCommand p s = .next (stepDone p.length (sentUart (writeRequest e v n) s)) := by
  rw [issueCommand_of_step hs hst, issueStep_hinted p.length v hr hn, issueWrite_stepDone p.length _ hs]

theorem issueCommand_hinted_last (hs : Issuing .uart s) (hlast : p.length ≤ s.seq.toNat + 1) :
    issueCommand p s = .next (completed (sentUart (writeRequest e v n) s)) := by
  rw [issueCommand_hinted_uart hst hr hn hs, stepDone_last (s := sentUart _ s) hlast]
  rfl

/-- A step before the last: on UART the next one is up. -/
theorem issueCommand_hinted_more {q : BitVec 2} (hmore : s.seq.toNat + 1 < p.length) (hq : s.seq + 1#2 = q) :
    (Issuing .can s → issueCommand p s = .next (awaiting (sentCan (writeRequest e v n) s))) ∧
      (Issuing .uart s →
        issueCommand p s = .next { sentUart (writeRequest e v n) s with seq := q, phase := .issue }) := by
  refine ⟨issueCommand_hinted_can hst hr hn, fun hs => ?_⟩
  rw [issueCommand_hinted_uart hst hr hn hs, stepDone_more (s := sentUart _ s) (Nat.not_le_of_lt hmore), ← hq]
  rfl

end

/-! ### The motor commands' micro-programs are their writes -/

/-- A step of a micro-program is the write of a value to an entry, with the entry's own length (R231). -/
def StepWrites (t : OdTable) (st : MicroStep) (w : OdEntry × Word) : Prop :=
  ∃ r, st = hinted t r w.2 ∧ t.lookup r = some w.1

theorem op_of_motorWrites {s : State} {op : Byte} (h : motorWrites s op ≠ []) :
    op = 0x20#8 ∨ op = 0x21#8 ∨ op = 0x22#8 ∨ op = 0x23#8 ∨ op = 0x24#8 ∨ op = 0x25#8 := by
  by_contra hne
  simp only [not_or] at hne
  simp [motorWrites, hne] at h

theorem currentProg_motor {s : State} (h : motorWrites s (byteAt s.cmd 0) ≠ []) :
    List.Forall₂ (StepWrites s.cfg.od) (currentProg s) (motorWrites s (byteAt s.cmd 0)) := by
  have hsw (r : Byte) (v : Word) (e : OdEntry) (he : s.cfg.od.lookup r = some e) :
      StepWrites s.cfg.od (hinted s.cfg.od r v) (e, v) := ⟨r, rfl, he⟩
  rcases op_of_motorWrites h with hop | hop | hop | hop | hop | hop
  all_goals simp only [currentProg, decodeCommand, prog, motorWrites, hop]
  · exact .cons (hsw 0#8 _ _ rfl) .nil
  · exact .cons (hsw 0#8 _ _ rfl) .nil
  · exact .cons (hsw 0#8 _ _ rfl) (.cons (hsw 2#8 _ _ rfl) (.cons (hsw 0#8 _ _ rfl) .nil))
  · exact .cons (hsw 4#8 _ _ rfl) .nil
  · exact .cons (hsw 6#8 _ _ rfl) .nil
  · exact .cons (hsw 0#8 _ _ rfl) (.cons (hsw 4#8 _ _ rfl) (.cons (hsw 6#8 _ _ rfl) (.cons (hsw 0#8 _ _ rfl) .nil)))

theorem currentStep_motor {s : State} {w : OdEntry × Word}
    (h : (motorWrites s (byteAt s.cmd 0))[s.seq.toNat]? = some w) :
    ∃ r, currentStep s = some (hinted s.cfg.od r w.2) ∧ s.cfg.od.lookup r = some w.1 := by
  have hne : motorWrites s (byteAt s.cmd 0) ≠ [] := fun h' => by simp [h'] at h
  obtain ⟨hlen, hsteps⟩ := List.forall₂_iff_get.mp (currentProg_motor hne)
  obtain ⟨hlt, hw⟩ := List.getElem?_eq_some_iff.mp h
  obtain ⟨r, hst, hr⟩ := hsteps s.seq.toNat (hlen ▸ hlt) hlt
  rw [List.get_eq_getElem, List.get_eq_getElem, hw] at hst
  rw [List.get_eq_getElem, hw] at hr
  exact ⟨r, (List.getElem?_eq_getElem (hlen ▸ hlt)).trans (congrArg some hst), hr⟩

theorem length_motorWrites (s : State) {op : Byte} (h : motorWrites s op ≠ []) :
    (motorWrites s op).length = writeSteps op := by
  rcases op_of_motorWrites h with rfl | rfl | rfl | rfl | rfl | rfl <;> rfl

/-- A command with a current step other than OPEN and CLOSE runs that step. -/
theorem engineIssue_of_currentStep {t : Transport} {s : State} {st : MicroStep} (hs : Issuing t s)
    (hst : currentStep s = some st) : engineIssue s = .next (issueStep (currentProg s).length st s) := by
  have hne : currentProg s ≠ [] := fun h => by simp [currentStep, h] at hst
  have hdef : DefinedOp (byteAt s.cmd 0) := by
    by_contra hop
    exact hne (by rw [currentProg, decodeCommand_reserved hop])
  have hopen : byteAt s.cmd 0 ≠ 0x01#8 := fun hop => hne (currentProg_of_decode (decodeCommand_open hop))
  have hclose : byteAt s.cmd 0 ≠ 0x02#8 := fun hop => hne (currentProg_of_decode (decodeCommand_close hop))
  rw [engineIssue_command hdef hopen hclose, issueCommand_of_step hs hst]

/-! ### Frames and identifiers run as instructions (log 8) -/

theorem issueFrame_issuing {t : Transport} {s : State} (k : State → State) (hs : Issuing t s) :
    issueFrame k s = .next (k s) := by
  obtain ⟨hphase, hopen, -⟩ := hs
  simp [issueFrame, hphase, hopen]

theorem issueFrameOn_same {t : Transport} {s : State} (k : State → State) (hs : Issuing t s) :
    issueFrameOn t k s = .next (k s) := by
  rw [issueFrameOn, issueFrame_issuing _ hs, if_pos hs.2.2]

theorem issueFrameOn_other {t t' : Transport} {s : State} (k : State → State) (hs : Issuing t s) (hne : t ≠ t') :
    issueFrameOn t' k s = .next s := by
  rw [issueFrameOn, issueFrame_issuing _ hs, if_neg (hs.2.2 ▸ hne)]

theorem issueWrite_afterUartWrite {s : State} (f : SdoFrame) (hs : Issuing .uart s) (hw : WriteStep s) :
    issueWrite (currentProg s).length f s = afterUartWrite (sentUart f s) := by
  rw [issueWrite_stepDone _ f hs, length_currentProg_of_writeStep hw]
  exact stepDone_writeStep (s := sentUart f s) hw

/-- A command whose current step writes is one that R212 gives write steps. -/
theorem writeStep_of_currentStep {s : State} {r len : Byte} {v : Word} (h : currentStep s = some (.wr r v len)) :
    WriteStep s := by
  rw [currentStep] at h
  obtain ⟨hlt, -⟩ := List.getElem?_eq_some_iff.mp h
  rcases currentProg_kinds s with hp | ⟨-, hp⟩ | hp
  · simp [hp] at h
  · rw [hp] at h
    cases List.mem_singleton.mp (List.mem_of_getElem? h)
  · rwa [(currentProg_writes hp).1] at hlt

theorem currentStep_eq_none {s : State} (hr : ¬ ReadStep s) (hw : ¬ WriteStep s) : currentStep s = none := by
  cases hst : currentStep s with
  | none => rfl
  | some st =>
    cases st with
    | rd r => exact absurd (readStep_of_currentStep hst) hr
    | wr r v len => exact absurd (writeStep_of_currentStep hst) hw

theorem issueCurrentStep_of_some {s : State} {st : MicroStep} (h : currentStep s = some st) :
    issueCurrentStep s = issueStep (currentProg s).length st s := by
  rw [issueCurrentStep, h]

theorem exec_canReqId {s : State} (hs : Issuing .can s) :
    exec (.canReqId s.nodeId) s = .next (issueCurrentStep s) :=
  (issueFrameOn_same _ hs).trans (congrArg _ (if_pos rfl))

theorem exec_canReqId_other {s : State} {node : BitVec 7} (hs : Issuing .can s) (hne : node ≠ s.nodeId) :
    exec (.canReqId node) s = .next s :=
  (issueFrameOn_same _ hs).trans (congrArg _ (if_neg hne))

/-! ### The obligations -/

/-- Settles O31, in both states of the connection. -/
theorem openCompletes : Obligations.OpenCompletes := fun _ reg len hphase => exec_openConn reg len hphase

/-- Settles O32. -/
theorem closeCompletes : Obligations.CloseCompletes := fun _ reg len hphase => exec_closeConn reg len hphase

/-- Settles O34: the one step of READ finds its entry and sends the request, on either transport. -/
theorem readSendsTheRequest : Obligations.ReadSendsTheRequest := by
  intro s reg len e hseq he
  have hlook := (lookup_eq_getElem? s.cfg.od reg).trans he
  refine ⟨fun hs => ?can, fun hs => ?uart⟩
  case can => rw [exec_read reg len hs hseq, issueStep_rd 1 hlook, issueRead_can _ hs]
  case uart => rw [exec_read reg len hs hseq, issueStep_rd 1 hlook, issueRead_uart _ hs]

/-- Settles O35: the one step of WRITE finds its entry, accepts the length and sends the operand. -/
theorem writeSendsTheOperand : Obligations.WriteSendsTheOperand := by
  intro s reg n e hseq he
  have hlook := (lookup_eq_getElem? s.cfg.od reg).trans he
  have hstep := issueStep_wr (s := s) 1 s.arg0 hlook (ofByte?_lenByte n)
  refine ⟨fun hs => ?can, fun hs => ?uart⟩
  case can => rw [exec_write reg _ hs hseq, hstep, issueWrite_awaiting 1 _ hs]
  case uart => rw [exec_write reg _ hs hseq, hstep, issueWrite_stepDone 1 _ hs, stepDone_one]

/-- Settles O36: the four micro-programs of one hinted write. -/
theorem singleWriteMotorCommands : Obligations.SingleWriteMotorCommands := by
  intro s reg len n hseq
  have hfirst (v : Word) (r : Byte) :
      [hinted s.cfg.od r v][s.seq.toNat]? = some (hinted s.cfg.od r v) := by simp [hseq]
  have hlast : 1 ≤ s.seq.toNat + 1 := Nat.le_add_left 1 _
  refine ⟨fun hn => ⟨fun hs => ⟨?_, ?_⟩, fun hs => ⟨?_, ?_⟩⟩, fun hn => ⟨fun hs => ?_, fun hs => ?_⟩,
    fun hn => ⟨fun hs => ?_, fun hs => ?_⟩⟩
  · exact issueCommand_hinted_can (hfirst 0x86#32 0#8) rfl hn hs
  · exact issueCommand_hinted_can (hfirst 0x0B#32 0#8) rfl hn hs
  · exact issueCommand_hinted_last (hfirst 0x86#32 0#8) rfl hn hs hlast
  · exact issueCommand_hinted_last (hfirst 0x0B#32 0#8) rfl hn hs hlast
  · exact issueCommand_hinted_can (hfirst s.arg0 4#8) rfl hn hs
  · exact issueCommand_hinted_last (hfirst s.arg0 4#8) rfl hn hs hlast
  · exact issueCommand_hinted_can (hfirst s.arg0 6#8) rfl hn hs
  · exact issueCommand_hinted_last (hfirst s.arg0 6#8) rfl hn hs hlast

/-- Settles O37, step by step. -/
theorem startMoveSteps : Obligations.StartMoveSteps := by
  intro s reg len n
  have hexec : exec (.startMove reg len) s = issueCommand (prog s (.startMove reg len)) s := rfl
  have hlen : (prog s (.startMove reg len)).length = 3 := rfl
  rw [hexec]
  refine ⟨fun hn hseq => ?first, fun hn hseq => ?second, fun hn hseq => ?last⟩
  case first =>
    exact issueCommand_hinted_more (r := 0#8) (by rw [hseq]; rfl) rfl hn (by simp [hlen, hseq]) (by rw [hseq]; rfl)
  case second =>
    exact issueCommand_hinted_more (r := 2#8) (by rw [hseq]; rfl) rfl hn (by simp [hlen, hseq]) (by rw [hseq]; rfl)
  case last =>
    have hst : (prog s (.startMove reg len))[s.seq.toNat]? = some (hinted s.cfg.od 0#8 0x3F#32) := by rw [hseq]; rfl
    exact ⟨issueCommand_hinted_can hst rfl hn,
      fun hs => issueCommand_hinted_last hst rfl hn hs (by simp [hlen, hseq])⟩

/-- Settles O38, step by step. -/
theorem setPosSpeedSteps : Obligations.SetPosSpeedSteps := by
  intro s reg len n
  have hexec : exec (.setPosSpeed reg len) s = issueCommand (prog s (.setPosSpeed reg len)) s := rfl
  have hlen : (prog s (.setPosSpeed reg len)).length = 4 := rfl
  rw [hexec]
  refine ⟨fun hn hseq => ?first, fun hn hseq => ?second, fun hn hseq => ?third, fun hn hseq => ?last⟩
  case first =>
    exact issueCommand_hinted_more (r := 0#8) (by rw [hseq]; rfl) rfl hn (by simp [hlen, hseq]) (by rw [hseq]; rfl)
  case second =>
    exact issueCommand_hinted_more (r := 4#8) (by rw [hseq]; rfl) rfl hn (by simp [hlen, hseq]) (by rw [hseq]; rfl)
  case third =>
    exact issueCommand_hinted_more (r := 6#8) (by rw [hseq]; rfl) rfl hn (by simp [hlen, hseq]) (by rw [hseq]; rfl)
  case last =>
    have hst : (prog s (.setPosSpeed reg len))[s.seq.toNat]? = some (hinted s.cfg.od 0#8 0x3F#32) := by rw [hseq]; rfl
    exact ⟨issueCommand_hinted_can hst rfl hn,
      fun hs => issueCommand_hinted_last hst rfl hn hs (by simp [hlen, hseq])⟩

/-- Settles O39: the step's length check fails before anything is sent. -/
theorem badHintRaisesUsageError : Obligations.BadHintRaisesUsageError := by
  intro t s i e v hsched hs hi hw hhint
  obtain ⟨r, hst, hr⟩ := currentStep_motor hw
  rw [step_engine s hsched, engineStep_issue s hs.1, engineIssue_of_currentStep hs hst,
    issueStep_hinted_bad (currentProg s).length v hr hhint]

/-- Settles O42: the frames of the encoder are those of R86 to R89; the transport decides what follows. -/
theorem requestFramesAreSent : Obligations.RequestFramesAreSent := by
  intro s index sub b h w
  refine ⟨fun hs => ⟨?readCan, fun hw => ⟨?_, ?_, ?_⟩⟩, fun hs => ⟨?readUart, fun hw => ⟨?_, ?_, ?_⟩⟩⟩
  case readCan => exact (issueFrame_issuing _ hs).trans (congrArg _ (issueRead_can _ hs))
  case readUart => exact (issueFrame_issuing _ hs).trans (congrArg _ (issueRead_uart _ hs))
  iterate 3 exact (issueFrame_issuing _ hs).trans (congrArg _ (issueWrite_awaiting _ _ hs))
  iterate 3 exact (issueFrame_issuing _ hs).trans (congrArg _ (issueWrite_afterUartWrite _ hs hw))

/-- Settles O43: on UART as the logical frames, on CAN nothing. -/
theorem uartRequestFramesAreSent : Obligations.UartRequestFramesAreSent := by
  intro s index sub b h w chk
  refine ⟨fun hs => ⟨?read, fun hw => ⟨?_, ?_, ?_⟩⟩, fun hs => ⟨?_, ?_, ?_, ?_⟩⟩
  case read => exact (issueFrameOn_same _ hs).trans (congrArg _ (issueRead_uart _ hs))
  iterate 3 exact (issueFrameOn_same _ hs).trans (congrArg _ (issueWrite_afterUartWrite _ hs hw))
  iterate 4 exact issueFrameOn_other _ hs nofun

/-- Settles O44: the own identifier issues the current step, whichever it is. -/
theorem requestIdentifierIsSent : Obligations.RequestIdentifierIsSent := by
  intro s node hs
  refine ⟨?own, exec_canReqId_other hs⟩
  rintro rfl
  rw [exec_canReqId hs]
  refine ⟨fun e hr he => ?read, fun e n hop hseq he hlen => ?write, fun e v n hw hhint => ?motor,
    fun i hstep hi => ?command, fun hr hw => ?nothing⟩
  case read =>
    have hlook := (lookup_eq_getElem? s.cfg.od _).trans he
    rw [issueCurrentStep_of_some (currentStep_of_readStep hr), issueStep_rd _ hlook, issueRead_can _ hs]
  case write =>
    have hlook := (lookup_eq_getElem? s.cfg.od _).trans he
    have hst : currentStep s = some (.wr (byteAt s.cmd 1) s.arg0 (lenByte n)) := by
      simp [currentStep, currentProg, decodeCommand, prog, hop, hseq, hlen]
    rw [issueCurrentStep_of_some hst, issueStep_wr _ _ hlook (ofByte?_lenByte n), issueWrite_awaiting _ _ hs]
  case motor =>
    obtain ⟨r, hst, hr⟩ := currentStep_motor hw
    rw [issueCurrentStep_of_some hst, issueStep_hinted _ v hr hhint, issueWrite_awaiting _ _ hs]
  case command =>
    obtain ⟨st, hst⟩ : ∃ st, currentStep s = some st := by
      rcases hstep with hr | hw
      · exact ⟨_, currentStep_of_readStep hr⟩
      · obtain ⟨r, v, len, hst⟩ := currentStep_of_writeStep hw
        exact ⟨_, hst⟩
    rw [← engineIssue_of_decode hi, engineIssue_of_currentStep hs hst, issueCurrentStep_of_some hst]
  case nothing => rw [issueCurrentStep, currentStep_eq_none hr hw]

end Sys2Proof.Proofs
end

section
/-! The engine step in WAIT and the frames it takes, the fetch of every instruction, and its placing (44_host_ops.md
R213, R220; 42_sdo_codec.md R165 to R170; 43_framed_codec.md R192). -/

namespace Sys2Proof.Proofs

open Sys2Proof.Machine Sys2Proof.Claims

/-! ### A response taken in a read step -/

theorem canResponse_readStep {s : State} (f : SdoFrame) (ha : Awaiting .can s) (hr : ReadStep s) :
    canResponse f s = .next (finishRead 1 (decodeResponse f) (tookCan f s)) := by
  rw [canResponse, if_pos (And.intro ha.1 ha.2), currentStep_of_readStep hr, length_currentProg_of_readStep hr]
  rfl

theorem canResponse_value {s : State} {f : SdoFrame} {w : Word} (ha : Awaiting .can s) (hr : ReadStep s)
    (hd : decodeResponse f = .value w) :
    canResponse f s = .next (completed { tookCan f s with result := w }) := by
  rw [canResponse_readStep f ha hr, hd, finishRead, stepDone_one]
  rfl

theorem canResponse_malformed {s : State} {f : SdoFrame} (ha : Awaiting .can s) (hr : ReadStep s)
    (hd : decodeResponse f = .malformed) :
    canResponse f s = .next (failed .malformedResponse (tookCan f s)) := by
  rw [canResponse_readStep f ha hr, hd, finishRead, completeErr_eq_failed (by decide)]

/-- An abort ends a read step and a write step alike (R167, R170). -/
theorem canResponse_abort {s : State} {f : SdoFrame} (ha : Awaiting .can s) (hstep : ReadStep s ∨ WriteStep s)
    (hcls : f.cmd = 0x80#8) : canResponse f s = .next (aborted f.payload (tookCan f s)) := by
  rcases hstep with hr | hw
  · have hd : decodeResponse f = .abort f.payload := by simp [decodeResponse, hcls]
    rw [canResponse_readStep f ha hr, hd, finishRead, completeErr_deviceAbort]
  · have hd : classifyWrite s.cfg.wack f = .abort f.payload := if_pos hcls
    rw [canResponse_writeStep f ha hw, hd, finishWrite, completeErr_deviceAbort]

theorem canResponse_ack {s : State} {f : SdoFrame} (ha : Awaiting .can s) (hw : WriteStep s) (hcls : f.cmd ≠ 0x80#8)
    (hack : f.cmd = s.cfg.wack) : canResponse f s = .next (afterAck (tookCan f s)) := by
  have hd : classifyWrite s.cfg.wack f = .acknowledged := (if_neg hcls).trans (if_pos hack)
  rw [canResponse_writeStep f ha hw, hd]
  exact congrArg _ (stepDone_endReceive (s := tookCan f s) hw)

/-! ### Zero extension -/

theorem ofNat_fromLe_byte (b : Byte) : BitVec.ofNat 32 (fromLe [b]) = b.setWidth 32 := by
  rw [fromLe_singleton, BitVec.ofNat_toNat]

theorem ofNat_fromLe_half (h : Half) : BitVec.ofNat 32 (fromLe [byteAt h 0, byteAt h 1]) = h.setWidth 32 := by
  have hnum : fromLe [byteAt h 0, byteAt h 1] = h.toNat := by
    have := h.isLt
    simp only [fromLe_cons, fromLe_nil, byteAt_toNat]
    omega
  rw [hnum, BitVec.ofNat_toNat]

/-! ### The fetch -/

theorem step_issue {s : State} {i : Instr} (hsched : s.schedule = []) (hphase : s.phase = .issue)
    (hi : decodeCommand s.cmd = .ok i) : step s = exec i s := by
  rw [step_engine s hsched, engineStep_issue s hphase, engineIssue_of_decode hi]

/-- The tenth byte of a frame whose header is in place (R188). -/
theorem step_tenthByte {s : State} {b : Byte} (hsched : s.schedule = []) (ha : Awaiting .uart s)
    (hq : s.urxq.head? = some b) (hcnt : 9 ≤ s.rxCnt) (hhead : HasHeader s (s.rxBuf.setByte 9 b)) :
    step s = uartResponse (s.rxBuf.setByte 9 b) s := by
  obtain ⟨rest, hq⟩ := List.head?_eq_some_iff.mp hq
  rw [step_awaiting_uart hsched ha, engineWaitUart_last hq hcnt hhead]

theorem hasHeader_of_decode {s : State} {u : UartFrame} {i : Instr}
    (h : decodeUartResponse s.umark0 s.umark1 u = .ok i) : HasHeader s u := by
  by_contra hhead
  obtain ⟨e, he⟩ := decodeUartResponse_of_not_header hhead
  rw [he] at h
  cases h

theorem step_canIdentifier {s : State} {f : CanRxFrame} {rest : List Event} {id : BitVec 11} {i : Instr}
    (hs : s.schedule = .canRx f :: rest) (hid : f.ident = .std id) (hi : decodeResponseId id = .ok i) :
    step s = exec i s := by
  have hstep : step s = engineCanRx f rest s := by rw [step, runEvent, hs]
  rw [hstep, engineCanRx, hid]
  simp only [hi]

theorem step_canFrame {s : State} {f : SdoFrame} (hsched : s.schedule = []) (ha : Awaiting .can s)
    (hf : HeadFrame f s) : step s = canResponse f s := by
  obtain ⟨rest, hq⟩ := List.head?_eq_some_iff.mp hf
  rw [step_awaiting_can hsched ha, engineWaitCan_frame ha.1 ha.2 hq]

/-! ### The placing (log 18) -/

theorem decodeCommand_commandWord {i : Instr} {w : Word} (h : encode i = .command w) : decodeCommand w = .ok i := by
  have hdecode : ∀ c, decode c (encode i) = .ok i := fun c =>
    decodeOfEncode c i (by cases i <;> cases h <;> rfl)
  simpa [h, decode] using hdecode WireCtx.table

/-- A placed command is fetched from CMD. -/
theorem step_placeCommand {i : Instr} {w : Word} (s : State) (h : encode i = .command w) :
    step (placeCommand w s) = exec i (placeCommand w s) := by
  refine step_issue rfl rfl ?_
  rw [placeCommand, decodeCommand_accept, decodeCommand_commandWord h]

theorem issuing_placeRequest (t : Transport) (w : Word) (index : Half) (sub : Byte) (s : State) :
    Issuing t (placeRequest t w index sub s) := ⟨rfl, rfl, rfl⟩

/-- The state of a placed write: WRITE of `len` bytes of `v` to entry 0, which is `index, sub`. -/
def placedWrite (t : Transport) (len : Byte) (index : Half) (sub : Byte) (v : Word) (s : State) : State :=
  { placeRequest t (commandWord 0x11#8 0#8 len) index sub s with arg0 := v }

theorem decodeCommand_placedWrite (t : Transport) (len : Byte) (index : Half) (sub : Byte) (v : Word) (s : State) :
    decodeCommand (placedWrite t len index sub v s).cmd = .ok (.write 0#8 len) :=
  (decodeCommand_accept _ s).trans (decodeCommand_commandWord (i := .write 0#8 len) rfl)

/-- The step of a placed write sends it, as the frame of that write does. -/
theorem step_placedWrite {n : WriteLen} (t : Transport) (index : Half) (sub : Byte) (v : Word) (s : State) :
    step (placedWrite t (lenByte n) index sub v s) =
      .next (issueWrite (currentProg (placedWrite t (lenByte n) index sub v s)).length (encodeWrite index sub v n)
        (placedWrite t (lenByte n) index sub v s)) := by
  have hdecode := decodeCommand_placedWrite t (lenByte n) index sub v s
  have hs : Issuing t (placedWrite t (lenByte n) index sub v s) := ⟨rfl, rfl, rfl⟩
  have harg : (placedWrite t (lenByte n) index sub v s).arg0 = v := rfl
  rw [step_issue rfl rfl hdecode, currentProg_of_decode hdecode, exec_write _ _ hs rfl, harg,
    issueStep_wr 1 v rfl (ofByte?_lenByte n), ← encodeWrite_eq_writeRequest]
  rfl

/-- The step of a placed READ sends the read request of entry 0. -/
theorem step_placedRead (t : Transport) (index : Half) (sub : Byte) (s : State) :
    step (placeRequest t (commandWord 0x10#8 0#8 0#8) index sub s) =
      .next (issueRead (rdReqFrame index sub) (placeRequest t (commandWord 0x10#8 0#8 0#8) index sub s)) := by
  have hdecode : decodeCommand (placeRequest t (commandWord 0x10#8 0#8 0#8) index sub s).cmd = .ok (.read 0#8 0#8) :=
    (decodeCommand_accept _ s).trans (decodeCommand_commandWord (i := .read 0#8 0#8) rfl)
  rw [step_issue rfl rfl hdecode, exec_read _ _ (issuing_placeRequest t _ index sub s) rfl, issueStep_rd 1 rfl]
  rfl

/-- A placed response is taken from the head of CRXQ. -/
theorem step_placeCanResponse (w : Word) (f : SdoFrame) (s : State) :
    step (placeCanResponse w f s) = canResponse f (placeCanResponse w f s) := step_canFrame rfl ⟨rfl, rfl⟩ rfl

/-! ### The response identifier as an instruction (log 8, 10) -/

theorem canRspIdOf_inj {m n : BitVec 7} : canRspIdOf m = canRspIdOf n ↔ m = n := by
  refine ⟨fun h => ?_, congrArg _⟩
  have hm := decodeResponseId_canRspIdOf m
  rw [h, decodeResponseId_canRspIdOf] at hm
  cases hm
  rfl

theorem exec_canRspId {s : State} {node : BitVec 7} {f : CanRxFrame} {rest : List Event}
    (hs : s.schedule = .canRx f :: rest) :
    exec (.canRspId node) s =
      .next (canRx { f with ident := .std (canRspIdOf node) } { s with schedule := rest }) := by
  have hexec : exec (.canRspId node) s = execCanRspId node s := rfl
  rw [hexec, execCanRspId, hs]

theorem canAccepts_withNode (f : CanRxFrame) (node : BitVec 7) (s : State) :
    canAccepts { f with ident := .std (canRspIdOf node) } s = true ↔
      s.isOpen = true ∧ s.tselAct = .can ∧ f.rtr = false ∧ node = s.nodeId := by
  rw [canAccepts_iff, CanIdent.std.injEq, canRspIdOf_inj]

theorem not_accepted {s : State} {f : CanRxFrame} {node : BitVec 7}
    (h : s.isOpen = false ∨ s.tselAct = .uart ∨ f.rtr = true ∨ node ≠ s.nodeId) :
    ¬ (s.isOpen = true ∧ s.tselAct = .can ∧ f.rtr = false ∧ node = s.nodeId) := by
  rintro ⟨ho, hc, hr, hn⟩
  simp [ho, hc, hr, hn] at h

/-! ### The obligations -/

/-- Settles O15, clause by clause. -/
theorem stepRunsFetchedInstruction : Obligations.StepRunsFetchedInstruction := by
  refine ⟨fun s i => step_issue, fun s i f hsched ha hf hr hd => ?read, fun s i f hsched ha hf hw hd => ?write,
    fun s i b hsched ha hq hcnt hd => ?uart, fun s i f id hs hid hi => ?identifier, step_engine,
    fun s rest => step_engineEvent⟩
  case read => exact step_decodedResponse hsched ha hf ((decodeAwaited_readStep f hr).trans (congrArg some hd))
  case write => exact step_decodedResponse hsched ha hf ((decodeAwaited_writeStep f hw).trans (congrArg some hd))
  case uart => rw [exec_of_decodeUartResponse hd, step_tenthByte hsched ha hq hcnt (hasHeader_of_decode hd)]
  case identifier =>
    obtain ⟨rest, hs⟩ := List.head?_eq_some_iff.mp hs
    exact step_canIdentifier hs hid hi

/-- Settles O16, by where an instruction is fetched: commands from CMD, request frames as what a command sends,
responses from the queues, identifiers from the current step and from an arriving frame. -/
theorem placedInstructionRuns : Obligations.PlacedInstructionRuns := by
  intro i s
  cases i with
  | openConn reg len | closeConn reg len | read reg len | write reg len | resetError reg len | quickStop reg len
  | startMove reg len | setTargetPosition reg len | setTrapezoidSpeed reg len | setPosSpeed reg len =>
    exact step_placeCommand s rfl
  | sdoRdReq index sub =>
    exact (step_placedRead .can index sub s).trans (issueFrame_issuing _ (issuing_placeRequest ..)).symm
  | uartRdReq index sub chk =>
    exact (step_placedRead .uart index sub s).trans (issueFrameOn_same _ (issuing_placeRequest ..)).symm
  | sdoWr1Req index sub v =>
    refine (step_placedWrite (n := .one) .can index sub (v.setWidth 32) s).trans ?_
    rw [encodeWrite_one, BitVec.setWidth_setWidth_of_le _ (by decide), BitVec.setWidth_eq]
    exact (issueFrame_issuing _ ⟨rfl, rfl, rfl⟩).symm
  | sdoWr2Req index sub v =>
    refine (step_placedWrite (n := .two) .can index sub (v.setWidth 32) s).trans ?_
    rw [encodeWrite_two, BitVec.setWidth_setWidth_of_le _ (by decide), BitVec.setWidth_eq]
    exact (issueFrame_issuing _ ⟨rfl, rfl, rfl⟩).symm
  | sdoWr4Req index sub v =>
    refine (step_placedWrite (n := .four) .can index sub v s).trans ?_
    exact (issueFrame_issuing _ ⟨rfl, rfl, rfl⟩).symm
  | uartWr1Req index sub v chk =>
    refine (step_placedWrite (n := .one) .uart index sub (v.setWidth 32) s).trans ?_
    rw [encodeWrite_one, BitVec.setWidth_setWidth_of_le _ (by decide), BitVec.setWidth_eq]
    exact (issueFrameOn_same _ ⟨rfl, rfl, rfl⟩).symm
  | uartWr2Req index sub v chk =>
    refine (step_placedWrite (n := .two) .uart index sub (v.setWidth 32) s).trans ?_
    rw [encodeWrite_two, BitVec.setWidth_setWidth_of_le _ (by decide), BitVec.setWidth_eq]
    exact (issueFrameOn_same _ ⟨rfl, rfl, rfl⟩).symm
  | uartWr4Req index sub v chk =>
    refine (step_placedWrite (n := .four) .uart index sub v s).trans ?_
    exact (issueFrameOn_same _ ⟨rfl, rfl, rfl⟩).symm
  | sdoRd1Rsp index sub v rest | sdoRd2Rsp index sub v rest | sdoRd4Rsp index sub v | sdoAbort index sub v =>
    exact step_placeCanResponse _ _ s
  | sdoWrAck ack index sub rest => exact step_canFrame rfl ⟨rfl, rfl⟩ rfl
  | uartRdRsp mark0 mark1 indexHi sub v chk => exact step_tenthByte rfl ⟨rfl, rfl⟩ rfl (Nat.le_refl 9) ⟨rfl, rfl, rfl⟩
  | canReqId node =>
    have hs : Issuing .can (place (.canReqId node) s) := ⟨rfl, rfl, rfl⟩
    have hr : ReadStep (place (.canReqId node) s) :=
      ⟨(byteAt_accept_cmd _ s (by decide)).trans (commandWord_op _ _ _), rfl⟩
    have hst := currentStep_of_readStep hr
    rw [step_engine _ rfl, engineStep_issue _ rfl, engineIssue_of_currentStep hs hst, ← issueCurrentStep_of_some hst]
    exact (exec_canReqId hs).symm
  | canRspId node => exact step_canIdentifier rfl rfl (decodeResponseId_canRspIdOf node)

/-- Settles O27: the two branches of the engine step on an empty queue. -/
theorem emptyQueueWaitsOrTimesOut : Obligations.EmptyQueueWaitsOrTimesOut := by
  intro s t hsched ha hcan huart
  have hstep : step s = if s.texp then .next (completeErr .timeout s) else .next s := by
    cases t with
    | can => rw [step_awaiting_can hsched ha, engineWaitCan, hcan rfl]
    | uart => rw [step_awaiting_uart hsched ha, engineWaitUart, huart rfl]
  rw [hstep, completeErr_eq_failed (by decide)]
  exact ⟨fun h => by simp [h], fun h => by simp [h]⟩

/-- Settles O28: the data length code is looked at before the class byte. -/
theorem wrongLengthIsMalformed : Obligations.WrongLengthIsMalformed := by
  intro s d q hsched ha hq hdlc
  rw [step_awaiting_can hsched ha, engineWaitCan, hq, ← completeErr_eq_failed (by decide)]
  exact if_neg hdlc

/-- Settles O45: each class byte is a value of its width, zero-extended. -/
theorem readResponsesComplete : Obligations.ReadResponsesComplete := by
  intro s index sub b h rest rest3 w ha hr
  refine ⟨?one, ?two, ?four⟩
  case one => exact canResponse_value ha hr ((decodeResponse_class4F rfl).trans (congrArg _ (ofNat_fromLe_byte b)))
  case two => exact canResponse_value ha hr ((decodeResponse_class4B rfl).trans (congrArg _ (ofNat_fromLe_half h)))
  case four => exact canResponse_value ha hr ((decodeResponse_class43 rfl).trans (congrArg _ (word_of_bytes w)))

/-- Settles O46. -/
theorem abortEndsTheCommand : Obligations.AbortEndsTheCommand := by
  intro s index sub code ha hstep
  have h := canResponse_abort (f := wordFrame 0x80#8 index sub code) ha hstep rfl
  rw [wordFrame_payload] at h
  exact h

/-- Settles O47: WACK ends a write step, and is no class of a read step. -/
theorem acknowledgementEndsTheStep : Obligations.AcknowledgementEndsTheStep := by
  intro s ack index sub rest ha hack habort
  refine ⟨fun hw => ?write, fun hr h1 h2 h4 => ?read⟩
  case write => exact canResponse_ack (f := wordFrame ack index sub rest) ha hw habort hack
  case read =>
    exact canResponse_malformed (f := wordFrame ack index sub rest) ha hr
      (decodeResponse_malformed (decodeReadResponse_unexpected h1 h2 h4 habort))

/-- Settles O48: the frame has the current markers, so the checksum decides. -/
theorem uartResponseCompletes : Obligations.UartResponseCompletes := by
  intro s indexHi sub v chk ha hr f
  have hframe := uartResponse_readStep (u := uartRspFrame s.umark0 s.umark1 indexHi sub v chk) ha hr ⟨rfl, rfl, rfl⟩
  have hvalue : (uartRspFrame s.umark0 s.umark1 indexHi sub v chk).body.payload = v := word_of_bytes v
  have hok : lrcOk (uartRspFrame s.umark0 s.umark1 indexHi sub v chk) = true ↔ lrc (0x7F#8 :: f.bytes) = chk :=
    lrcOk_iff_lrc _
  rw [hvalue] at hframe
  refine ⟨fun hchk => hframe.trans (congrArg _ ?valid), fun hchk => hframe.trans (congrArg _ ?invalid)⟩
  case valid => exact if_pos (hok.mpr hchk.symm)
  case invalid => exact if_neg fun h => hchk (hok.mp h).symm

/-- Settles O49: each outcome of the filter decides its clause. -/
theorem responseIdentifierIsFiltered : Obligations.ResponseIdentifierIsFiltered := by
  intro s node f rest hsched
  have hfilter := canAccepts_withNode f node { s with schedule := rest }
  rw [exec_canRspId hsched]
  rcases canRx_cases { f with ident := .std (canRspIdOf node) } { s with schedule := rest } with
    ⟨hdrop, heq⟩ | ⟨hacc, hroom, heq⟩ | ⟨hacc, hfull, heq⟩
  case inl =>
    exact ⟨fun ho hc hr hn => absurd (hfilter.mpr ⟨ho, hc, hr, hn⟩) (Bool.eq_false_iff.mp hdrop),
      fun _ => congrArg _ heq⟩
  case inr.inl =>
    refine ⟨fun _ _ _ _ => ⟨fun _ => ?queued, fun h => absurd ((hasRoom_iff _ _).mp hroom) h⟩,
      fun h => absurd (hfilter.mp hacc) (not_accepted h)⟩
    exact ⟨dlcMask f.dlc f.data, recordedData_dlcMask f, congrArg _ heq⟩
  case inr.inr =>
    exact ⟨fun _ _ _ _ => ⟨fun h => absurd h (not_room_of_hasRoom_false hfull), fun _ => congrArg _ heq⟩,
      fun h => absurd (hfilter.mp hacc) (not_accepted h)⟩

/-- Settles O52. -/
theorem timerExpiryOnlySetsTexp : Obligations.TimerExpiryOnlySetsTexp := by
  intro s rest hsched
  rw [step_timerExpire hsched]
  refine ⟨fun h => ?expires, fun h => ?nothing⟩
  case expires => rw [timerExpire_armed (s := { s with schedule := rest }) h]
  case nothing => rw [timerExpire_not (s := { s with schedule := rest }) h]

end Sys2Proof.Proofs
end

section
/-! A motor command from its first step to its completion, on UART and on CAN (45_motor_state_controller.md R240,
R245). -/

namespace Sys2Proof.Proofs

open Sys2Proof.Machine Sys2Proof.Claims

/-! ### A well-formed OD gives every write its length -/

theorem hintLen_of_writable {e : OdEntry} (h : e.writable = true) : ∃ n, hintLen e = some n := by
  unfold OdEntry.writable at h
  unfold hintLen
  split
  · exact ⟨_, rfl⟩
  split
  · exact ⟨_, rfl⟩
  split
  · exact ⟨_, rfl⟩
  · simp_all

theorem writable_of_motorWrites {s : State} {op : Byte} {w : OdEntry × Word} (hwf : s.cfg.od.wellFormed = true)
    (hw : w ∈ motorWrites s op) : w.1.writable = true := by
  obtain ⟨⟨⟨hcontrol, hmode⟩, hposition⟩, hspeed⟩ := by simpa [OdTable.wellFormed] using hwf
  have hne : motorWrites s op ≠ [] := List.ne_nil_of_mem hw
  rcases op_of_motorWrites hne with rfl | rfl | rfl | rfl | rfl | rfl <;> simp [motorWrites] at hw
  case inl | inr.inl => simpa [hw] using hcontrol
  case inr.inr.inr.inl => simpa [hw] using hposition
  case inr.inr.inr.inr.inl => simpa [hw] using hspeed
  case inr.inr.inl => rcases hw with rfl | rfl | rfl <;> assumption
  case inr.inr.inr.inr.inr => rcases hw with rfl | rfl | rfl | rfl <;> assumption

theorem motorFrame_of_hint {w : OdEntry × Word} {n : WriteLen} (h : hintLen w.1 = some n) :
    motorFrame w = writeRequest w.1 w.2 n := by
  rw [motorFrame, h, Option.getD_some]

/-! ### One step of the command -/

theorem issueStep_motor {s : State} {w : OdEntry × Word} (hwf : s.cfg.od.wellFormed = true)
    (h : (motorWrites s (byteAt s.cmd 0))[s.seq.toNat]? = some w) :
    ∃ st, currentStep s = some st ∧ ∀ n, issueStep n st s = issueWrite n (motorFrame w) s := by
  obtain ⟨r, hst, hr⟩ := currentStep_motor h
  obtain ⟨n, hn⟩ := hintLen_of_writable (writable_of_motorWrites hwf (List.mem_of_getElem? h))
  exact ⟨_, hst, fun k => by rw [issueStep_hinted k w.2 hr hn, motorFrame_of_hint hn]⟩

theorem step_motor {t : Transport} {s : State} {w : OdEntry × Word} (hsched : s.schedule = []) (hs : Issuing t s)
    (hwf : s.cfg.od.wellFormed = true) (h : (motorWrites s (byteAt s.cmd 0))[s.seq.toNat]? = some w) :
    step s = .next (issueWrite (currentProg s).length (motorFrame w) s) := by
  obtain ⟨st, hst, hissue⟩ := issueStep_motor hwf h
  rw [step_engine s hsched, engineStep_issue s hs.1, engineIssue_of_currentStep hs hst, hissue]

/-- A motor command in which the writes `done` are behind, SEQ counting them, and the writes `ws` are still to be
made. -/
structure MotorAt (s : State) (done ws : List (OdEntry × Word)) : Prop where
  split : motorWrites s (byteAt s.cmd 0) = done ++ ws
  seq : s.seq.toNat = done.length
  schedule : s.schedule = []
  wellFormed : s.cfg.od.wellFormed = true

section

variable {s : State} {w : OdEntry × Word} {done ws : List (OdEntry × Word)}

theorem motorAt_current (h : MotorAt s done (w :: ws)) : (motorWrites s (byteAt s.cmd 0))[s.seq.toNat]? = some w := by
  rw [h.split, h.seq, List.getElem?_append_right (Nat.le_refl _), Nat.sub_self]
  rfl

theorem motorAt_steps (h : MotorAt s done (w :: ws)) : writeSteps (byteAt s.cmd 0) = s.seq.toNat + 1 + ws.length := by
  have hne : motorWrites s (byteAt s.cmd 0) ≠ [] := by simp [h.split]
  rw [← length_motorWrites s hne, h.split, h.seq, List.length_append, List.length_cons]
  omega

theorem motorAt_writeStep (h : MotorAt s done (w :: ws)) : WriteStep s := by
  rw [WriteStep, motorAt_steps h]
  omega

/-- With one more write behind, SEQ has gone on by one: it does not wrap, since there are at most four. -/
theorem motorAt_next {t : State} (h : MotorAt s done (w :: ws)) (hne : ws ≠ []) (hcfg : t.cfg = s.cfg)
    (hcmd : t.cmd = s.cmd) (h0 : t.arg0 = s.arg0) (h1 : t.arg1 = s.arg1) (hseq : t.seq = s.seq + 1#2)
    (hsched : t.schedule = s.schedule) : MotorAt t (done ++ [w]) ws where
  split := by
    have hsame : motorWrites t (byteAt s.cmd 0) = motorWrites s (byteAt s.cmd 0) := by
      simp only [motorWrites, hcfg, h0, h1]
    rw [hcmd, List.append_assoc, hsame]
    exact h.split
  seq := by
    have hle := writeSteps_le (byteAt s.cmd 0)
    have hpos := List.length_pos_iff.mpr hne
    rw [motorAt_steps h] at hle
    rw [hseq, List.length_append, ← h.seq, BitVec.toNat_add]
    simp
    omega
  schedule := hsched.trans h.schedule
  wellFormed := hcfg ▸ h.wellFormed

end

/-! ### On UART -/

theorem completed_foldl_sentUart (fs : List SdoFrame) (s : State) (q : BitVec 2) :
    completed (fs.foldl (fun s f => sentUart f s) { s with seq := q, phase := .issue }) =
      completed (fs.foldl (fun s f => sentUart f s) s) := by
  induction fs generalizing s with
  | nil => rfl
  | cons f fs ih => exact ih (sentUart f s)

/-- What is left of a motor command on UART: a send at every engine step, and completion with the last. -/
theorem settle_motor_uart {ws : List (OdEntry × Word)} (hne : ws ≠ []) {s : State} {done : List (OdEntry × Word)}
    (h : MotorAt s done ws) (hs : Issuing .uart s) :
    HostSide.settle ws.length s = .next (completed ((ws.map motorFrame).foldl (fun s f => sentUart f s) s)) := by
  induction ws generalizing s done with
  | nil => exact absurd rfl hne
  | cons w ws ih =>
    have hstep : step s = .next (afterUartWrite (sentUart (motorFrame w) s)) := by
      rw [step_motor h.schedule hs h.wellFormed (motorAt_current h),
        issueWrite_afterUartWrite _ hs (motorAt_writeStep h)]
    have hcount := motorAt_steps h
    rw [List.length_cons, settle_succ hstep]
    cases ws with
    | nil =>
      have hlast : afterUartWrite (sentUart (motorFrame w) s) = completed (sentUart (motorFrame w) s) :=
        if_pos hcount.symm
      rw [hlast]
      rfl
    | cons w' ws =>
      have hmore : afterUartWrite (sentUart (motorFrame w) s) =
          { sentUart (motorFrame w) s with seq := s.seq + 1#2, phase := .issue } :=
        if_neg (show s.seq.toNat + 1 ≠ writeSteps (byteAt s.cmd 0) by rw [hcount]; simp)
      rw [hmore, ih (s := { sentUart (motorFrame w) s with seq := s.seq + 1#2, phase := .issue }) (by simp)
        (motorAt_next h (by simp) rfl rfl rfl rfl rfl rfl) ⟨rfl, hs.2.1, hs.2.2⟩]
      exact congrArg _ (completed_foldl_sentUart _ (sentUart (motorFrame w) s) _)

/-! ### On CAN -/

/-- The command has made its writes `ws`, has left `rest` in CRXQ, and is complete without a new error. -/
def CanRunDone (s : State) (ws : List (OdEntry × Word)) (rest : List CanData) (t : State) : Prop :=
  t.ctx = s.ctx ++ ws.map (fun w => ⟨0b1100#4 ++ s.nodeId, 8#4, motorFrame w⟩) ∧ t.utx = s.utx ∧ t.crxq = rest ∧
    t.busy = false ∧ t.done = true ∧ t.err = s.err ∧ t.errKind = s.errKind ∧ t.result = s.result ∧ t.isOpen = true ∧
    t.phase = .idle

/-- The state after a write and its acknowledgement on CAN. -/
def acknowledgedWrite (f ack : SdoFrame) (s : State) : State := tookCan ack (awaiting (sentCan f s))

theorem acknowledgedWrite_cfg (f ack : SdoFrame) (s : State) :
    (advanced (acknowledgedWrite f ack s)).cfg = s.cfg := by
  simp only [advanced, acknowledgedWrite, tookCan, awaiting, sentCan]

theorem acknowledgedWrite_crxq (f ack : SdoFrame) (s : State) :
    (advanced (acknowledgedWrite f ack s)).crxq = s.crxq.tail := by
  simp only [advanced, acknowledgedWrite, tookCan, awaiting, sentCan]

theorem canRunDone_completed {s : State} (w : OdEntry × Word) (ack : SdoFrame) (hopen : s.isOpen = true) :
    CanRunDone s [w] s.crxq.tail (completed (acknowledgedWrite (motorFrame w) ack s)) := by
  simp [CanRunDone, completed, acknowledgedWrite, tookCan, awaiting, sentCan, hopen]

theorem motorAt_advanced {s : State} {w : OdEntry × Word} {done ws : List (OdEntry × Word)} (f ack : SdoFrame)
    (h : MotorAt s done (w :: ws)) (hne : ws ≠ []) :
    MotorAt (advanced (acknowledgedWrite f ack s)) (done ++ [w]) ws := by
  apply motorAt_next h hne <;> simp only [advanced, acknowledgedWrite, tookCan, awaiting, sentCan]

theorem issuing_advanced {s : State} (f ack : SdoFrame) (h : Issuing .can s) :
    Issuing .can (advanced (acknowledgedWrite f ack s)) := by
  simpa only [Issuing, advanced, acknowledgedWrite, tookCan, awaiting, sentCan, true_and] using h.2

/-- What a write and its acknowledgement put before the rest of the run. -/
theorem canRunDone_cons {s t : State} {w : OdEntry × Word} {ws : List (OdEntry × Word)} {ack : SdoFrame}
    {rest : List CanData} (h : CanRunDone (advanced (acknowledgedWrite (motorFrame w) ack s)) ws rest t) :
    CanRunDone s (w :: ws) rest t := by
  simpa only [CanRunDone, advanced, acknowledgedWrite, tookCan, awaiting, sentCan, List.append_assoc, List.map_cons,
    List.singleton_append] using h

/-- A write and its acknowledgement take two engine steps. -/
theorem settle_acknowledgedWrite {s : State} {w : OdEntry × Word} {done ws : List (OdEntry × Word)} {ack : SdoFrame}
    {q : List CanData} (n : Nat) (h : MotorAt s done (w :: ws)) (hs : Issuing .can s) (hq : s.crxq = ⟨8#4, ack⟩ :: q)
    (habort : s.cfg.wack ≠ 0x80#8) (hack : ack.cmd = s.cfg.wack) :
    HostSide.settle (n + 2) s = HostSide.settle n (afterAck (acknowledgedWrite (motorFrame w) ack s)) := by
  have hsend : step s = .next (awaiting (sentCan (motorFrame w) s)) := by
    rw [step_motor h.schedule hs h.wellFormed (motorAt_current h), issueWrite_awaiting _ _ hs]
  have htake : step (awaiting (sentCan (motorFrame w) s)) =
      .next (afterAck (acknowledgedWrite (motorFrame w) ack s)) :=
    step_writeAck (s := awaiting (sentCan (motorFrame w) s)) h.schedule ⟨rfl, hs.2.2⟩ (motorAt_writeStep (s := s) h)
      (congrArg List.head? hq) (hack ▸ habort) hack
  rw [settle_succ hsend, settle_succ htake]

/-- What is left of a motor command on CAN: a write and its acknowledgement at a time. -/
theorem settle_motor_can {ws : List (OdEntry × Word)} (hne : ws ≠ []) {s : State} {done : List (OdEntry × Word)}
    {acks : List SdoFrame} {rest : List CanData} (h : MotorAt s done ws) (hs : Issuing .can s)
    (habort : s.cfg.wack ≠ 0x80#8) (hlen : acks.length = ws.length) (hack : ∀ f ∈ acks, f.cmd = s.cfg.wack)
    (hq : s.crxq = acks.map (fun f => ⟨8#4, f⟩) ++ rest) :
    ∃ t, HostSide.settle (2 * ws.length) s = .next t ∧ CanRunDone s ws rest t := by
  induction ws generalizing s done acks with
  | nil => exact absurd rfl hne
  | cons w ws ih =>
    obtain _ | ⟨ack, acks⟩ := acks
    · simp at hlen
    have hcount := motorAt_steps h
    have htwo := settle_acknowledgedWrite (2 * ws.length) h hs hq habort (hack ack (by simp))
    have htail : s.crxq.tail = acks.map (fun f => ⟨8#4, f⟩) ++ rest := congrArg List.tail hq
    rw [List.length_cons, Nat.mul_succ, htwo]
    cases ws with
    | nil =>
      obtain rfl : acks = [] := List.eq_nil_of_length_eq_zero (by simpa using hlen)
      have hlast : afterAck (acknowledgedWrite (motorFrame w) ack s) =
          completed (acknowledgedWrite (motorFrame w) ack s) := if_pos hcount.symm
      obtain rfl : s.crxq.tail = rest := htail
      rw [hlast]
      exact ⟨_, rfl, canRunDone_completed w ack hs.2.1⟩
    | cons w' ws =>
      have hmore : afterAck (acknowledgedWrite (motorFrame w) ack s) =
          advanced (acknowledgedWrite (motorFrame w) ack s) :=
        if_neg (show s.seq.toNat + 1 ≠ writeSteps (byteAt s.cmd 0) by rw [hcount]; simp)
      rw [hmore]
      obtain ⟨t, hsettle, hdone⟩ := ih (by simp) (motorAt_advanced (motorFrame w) ack h (by simp))
        (issuing_advanced _ _ hs) (by rwa [acknowledgedWrite_cfg]) (by simpa using hlen)
        (fun f hf => (hack f (List.mem_cons_of_mem _ hf)).trans (by rw [acknowledgedWrite_cfg]))
        ((acknowledgedWrite_crxq _ _ _).trans htail)
      exact ⟨t, hsettle, canRunDone_cons hdone⟩

/-! ### The obligations -/

theorem motorAt_first {s : State} {op : Byte} (hop : byteAt s.cmd 0 = op) (hsched : s.schedule = [])
    (hseq : s.seq = 0#2) (hwf : s.cfg.od.wellFormed = true) : MotorAt s [] (motorWrites s op) :=
  ⟨by rw [hop]; rfl, by rw [hseq]; rfl, hsched, hwf⟩

/-- Settles O40: the run from the first step. -/
theorem uartMotorCommandsRunToCompletion : Obligations.UartMotorCommandsRunToCompletion :=
  fun _ _ hop hne hsched hs hseq hwf => settle_motor_uart hne (motorAt_first hop hsched hseq hwf) hs

/-- Settles O41: the run from the first step. -/
theorem canMotorCommandsRunToCompletion : Obligations.CanMotorCommandsRunToCompletion :=
  fun _ _ _ _ hop hne hsched hs hseq hwf habort hlen hack hq =>
    settle_motor_can hne (motorAt_first hop hsched hseq hwf) hs habort hlen hack hq

end Sys2Proof.Proofs
end

section
/-! What the host reads: the registers it wrote, the fields of STATUS and the entry of the OD that CMD selects
(10_state.md R20, R29, R34, R35, R46). -/

namespace Sys2Proof.Proofs

open Sys2Proof.Machine Sys2Proof.Claims

/-! ### The mask of a register is the width of its field -/

/-- The low `n` bits of a word, zero-extended, are the word under the mask of those bits. -/
theorem lowField_eq_and {n : Nat} (w : Word) (h : n ≤ 32) :
    (w.extractLsb' 0 n).setWidth 32 = w &&& BitVec.ofNat 32 (2 ^ n - 1) := by
  have hmask : 2 ^ n - 1 < 2 ^ 32 := by
    have hle : 2 ^ n ≤ 2 ^ 32 := Nat.pow_le_pow_right (by decide) h
    have hpos := Nat.two_pow_pos n
    omega
  have hlow : w.toNat % 2 ^ n < 2 ^ 32 := (Nat.mod_le _ _).trans_lt w.isLt
  apply BitVec.eq_of_toNat_eq
  rw [BitVec.toNat_and, BitVec.toNat_ofNat, Nat.mod_eq_of_lt hmask, Nat.and_two_pow_sub_one_eq_mod,
    BitVec.toNat_setWidth, BitVec.extractLsb'_toNat, Nat.shiftRight_zero, Nat.mod_eq_of_lt hlow]

theorem lowBit_eq_and (w : Word) : boolBits 32 (w.getLsbD 0) = w &&& 0x00000001#32 := by
  refine Eq.trans ?_ (lowField_eq_and (n := 1) w (by decide))
  rw [BitVec.getLsbD_eq_extractLsb']
  generalize w.extractLsb' 0 1 = b
  revert b
  decide

theorem markers_eq_and (w : Word) : 0#16 ++ byteAt w 1 ++ byteAt w 0 = w &&& 0x0000FFFF#32 := by
  refine Eq.trans ?_ (lowField_eq_and (n := 16) w (by decide))
  apply BitVec.eq_of_toNat_eq
  simp only [append_toNat, byteAt_toNat, BitVec.toNat_setWidth, BitVec.extractLsb'_toNat, BitVec.toNat_ofNat]
  omega

/-! ### What the host reads after a write it may make -/

section

variable {s : State} (w : Word)

theorem hostRead_hostWrite_ctrl (hopen : s.isOpen = false) (hbusy : s.busy = false) :
    hostRead 0x00 (hostWrite 0x00 w s) = w &&& 0x00000001#32 := by
  rw [hostWrite_ctrl, hopen, hbusy]
  exact (congrArg (boolBits 32) (bit_ofBit _)).trans (lowBit_eq_and w)

theorem hostRead_hostWrite_nodeId (hopen : s.isOpen = false) (hbusy : s.busy = false) :
    hostRead 0x04 (hostWrite 0x04 w s) = w &&& 0x0000007F#32 := by
  rw [hostWrite_nodeId, hopen, hbusy]
  exact lowField_eq_and (n := 7) w (by decide)

theorem hostRead_hostWrite_baudDiv (hopen : s.isOpen = false) (hbusy : s.busy = false) :
    hostRead 0x0C (hostWrite 0x0C w s) = w &&& 0x0000FFFF#32 := by
  rw [hostWrite_baudDiv, hopen, hbusy]
  exact lowField_eq_and (n := 16) w (by decide)

theorem hostRead_hostWrite_timeout (hbusy : s.busy = false) : hostRead 0x08 (hostWrite 0x08 w s) = w := by
  rw [hostWrite_timeout, hbusy]
  rfl

theorem hostRead_hostWrite_umark (hbusy : s.busy = false) :
    hostRead 0x10 (hostWrite 0x10 w s) = w &&& 0x0000FFFF#32 := by
  rw [hostWrite_umark, hbusy]
  exact markers_eq_and w

theorem hostRead_hostWrite_cmd (hbusy : s.busy = false) :
    hostRead 0x14 (hostWrite 0x14 w s) = w &&& 0x00FFFFFF#32 := by
  rw [hostWrite_cmd, hbusy]
  exact accept_cmd_eq_and w s

theorem hostRead_hostWrite_arg0 (hbusy : s.busy = false) : hostRead 0x18 (hostWrite 0x18 w s) = w := by
  rw [hostWrite_arg0, hbusy]
  rfl

theorem hostRead_hostWrite_arg1 (hbusy : s.busy = false) : hostRead 0x1C (hostWrite 0x1C w s) = w := by
  rw [hostWrite_arg1, hbusy]
  rfl

end

/-- The registers are at the multiples of 4 up to 0x2C; every other address reads 0. -/
theorem hostRead_outside {addr : Nat} (s : State) (h : 0x2C < addr ∨ addr % 4 ≠ 0) : hostRead addr s = 0#32 := by
  have hne : ∀ k ≤ 0x2C, k % 4 = 0 → addr ≠ k := by omega
  simp [hostRead, hne]

/-- Settles O56: register by register. -/
theorem writtenRegistersReadBack : Obligations.WrittenRegistersReadBack := by
  refine ⟨?written, fun s => ⟨rfl, rfl⟩, fun s _ h => hostRead_outside s h⟩
  have hfull (w : Word) : w = w &&& 0xFFFFFFFF#32 := (BitVec.and_allOnes (x := w)).symm
  rintro s addr w hopen hbusy (rfl | rfl | rfl | rfl | rfl | rfl | rfl | rfl)
  · exact hostRead_hostWrite_ctrl w hopen hbusy
  · exact hostRead_hostWrite_nodeId w hopen hbusy
  · exact (hostRead_hostWrite_timeout w hbusy).trans (hfull w)
  · exact hostRead_hostWrite_baudDiv w hopen hbusy
  · exact hostRead_hostWrite_umark w hbusy
  · exact hostRead_hostWrite_cmd w hbusy
  · exact (hostRead_hostWrite_arg0 w hbusy).trans (hfull w)
  · exact (hostRead_hostWrite_arg1 w hbusy).trans (hfull w)

/-! ### STATUS -/

/-- The eight flags of STATUS, from bit 7 down. -/
def statusFlags (s : State) : Byte :=
  boolBits 1 s.crxOvr ++ boolBits 1 s.urxOvr ++ boolBits 1 s.cmdOvr ++ boolBits 1 s.tselAct.bit ++
    boolBits 1 s.isOpen ++ boolBits 1 s.err ++ boolBits 1 s.done ++ boolBits 1 s.busy

theorem statusWord_eq_append (s : State) :
    statusWord s = 0#16 ++ s.errStep ++ errCode s.errKind ++ statusFlags s := by
  apply BitVec.eq_of_toNat_eq
  simp only [statusWord, statusFlags, append_toNat]
  omega

theorem getLsbD_boolBits_one (b : Bool) : (boolBits 1 b).getLsbD 0 = b := by
  cases b <;> rfl

theorem statusBit_eq_flag {i : Nat} (h : i < 8) (s : State) :
    (hostRead 0x20 s).getLsbD i = (statusFlags s).getLsbD i := by
  show (statusWord s).getLsbD i = _
  rw [statusWord_eq_append, BitVec.getLsbD_append, if_pos h]

theorem statusFlags_bits (s : State) :
    (statusFlags s).getLsbD 0 = s.busy ∧ (statusFlags s).getLsbD 1 = s.done ∧ (statusFlags s).getLsbD 2 = s.err ∧
    (statusFlags s).getLsbD 3 = s.isOpen ∧ (statusFlags s).getLsbD 4 = s.tselAct.bit ∧
    (statusFlags s).getLsbD 5 = s.cmdOvr ∧ (statusFlags s).getLsbD 6 = s.urxOvr ∧
    (statusFlags s).getLsbD 7 = s.crxOvr := by
  simp only [statusFlags, BitVec.getLsbD_append, getLsbD_boolBits_one, Nat.reduceLT, Nat.reduceSub, if_true,
    if_false, and_self]

theorem bit_eq_true_iff (t : Transport) : t.bit = true ↔ t = .uart := by
  cases t <;> decide

theorem status_errKind (s : State) : (hostRead 0x20 s).extractLsb' 8 4 = errCode s.errKind := by
  show (statusWord s).extractLsb' 8 4 = _
  rw [statusWord_eq_append, BitVec.extractLsb'_append_eq_of_le (by decide), BitVec.extractLsb'_append_eq_right]

theorem status_errStep (s : State) : (hostRead 0x20 s).extractLsb' 12 4 = s.errStep := by
  show (statusWord s).extractLsb' 12 4 = _
  rw [statusWord_eq_append, BitVec.extractLsb'_append_eq_of_le (by decide),
    BitVec.extractLsb'_append_eq_of_le (by decide), BitVec.extractLsb'_append_eq_right]

theorem status_high (s : State) : (hostRead 0x20 s).extractLsb' 16 16 = 0#16 := by
  show (statusWord s).extractLsb' 16 16 = _
  rw [statusWord_eq_append, BitVec.extractLsb'_append_eq_of_le (by decide),
    BitVec.extractLsb'_append_eq_of_le (by decide), BitVec.extractLsb'_append_eq_left]

/-- Settles O58: the word is a concatenation, in which each field is found by the widths below it. -/
theorem statusLayout : Obligations.StatusLayout := by
  intro s
  have hkind : (hostRead 0x20 s).extractLsb' 8 4 = _ := status_errKind s
  obtain ⟨hbusy, hdone, herr, hopen, htsel, hcmd, hurx, hcrx⟩ := statusFlags_bits s
  have hflag {i : Nat} (h : i < 8) := statusBit_eq_flag h s
  refine ⟨(hflag (by decide)).trans hbusy, (hflag (by decide)).trans hdone, (hflag (by decide)).trans herr,
    (hflag (by decide)).trans hopen, ?_, (hflag (by decide)).trans hcmd, (hflag (by decide)).trans hurx,
    (hflag (by decide)).trans hcrx, ?_, status_errStep s, status_high s⟩
  · rw [hflag (by decide), htsel, bit_eq_true_iff]
  · rw [hkind]
    rcases s.errKind with _ | _ | _ | _ | _ | _ | _ <;> rfl

/-! ### ODPEEK -/

theorem peek_fields (e : OdEntry) :
    e.peek.extractLsb' 0 16 = e.index ∧ e.peek.extractLsb' 16 8 = e.sub ∧ e.peek.extractLsb' 24 3 = e.len ∧
      e.peek.extractLsb' 27 5 = 0#5 := by
  unfold OdEntry.peek
  refine ⟨BitVec.extractLsb'_append_eq_right, ?_, ?_, ?_⟩
  · rw [BitVec.extractLsb'_append_eq_of_le (by decide), BitVec.extractLsb'_append_eq_right]
  · rw [BitVec.extractLsb'_append_eq_of_le (by decide), BitVec.extractLsb'_append_eq_of_le (by decide),
      BitVec.extractLsb'_append_eq_right]
  · rw [BitVec.extractLsb'_append_eq_of_le (by decide), BitVec.extractLsb'_append_eq_of_le (by decide),
      BitVec.extractLsb'_append_eq_left]

theorem hostRead_odPeek_of_some {s : State} {e : OdEntry} (h : s.cfg.od.lookup (byteAt s.cmd 1) = some e) :
    hostRead 0x2C s = e.peek := by
  show odPeek s = e.peek
  rw [odPeek, h]

theorem hostRead_odPeek_of_none {s : State} (h : s.cfg.od.lookup (byteAt s.cmd 1) = none) : hostRead 0x2C s = 0#32 := by
  show odPeek s = 0#32
  rw [odPeek, h]

/-- Settles O59: the look-up takes the entries in selector order. -/
theorem odPeekShowsTheSelectedEntry : Obligations.OdPeekShowsTheSelectedEntry := by
  refine fun s => ⟨fun h => hostRead_odPeek_of_none (lookup_reserved _ h), fun e he => ?_⟩
  rw [hostRead_odPeek_of_some ((lookup_eq_getElem? _ _).trans he)]
  exact peek_fields e

end Sys2Proof.Proofs
end

section
/-! The CAN position of the host (46_host_units_facade.md R253, R254, R265): rounding to the nearest integer and back
again. -/

namespace Sys2Proof.Proofs

open Sys2Proof.HostSide

/-- On a negative number, rounding away from zero at a tie is rounding up the opposite. -/
theorem roundHalfAway_eq (x : Rat) : roundHalfAway x = if 0 ≤ x then round x else -round (-x) := by
  rw [roundHalfAway, round_eq, round_eq]
  rfl

theorem abs_roundHalfAway_sub (x : Rat) : |(roundHalfAway x : Rat) - x| ≤ 1 / 2 := by
  rw [roundHalfAway_eq]
  split
  · rw [abs_sub_comm]
    exact abs_sub_round x
  · have hneg : ((-round (-x) : Int) : Rat) - x = -x - round (-x) := by
      push_cast
      ring
    rw [hneg]
    exact abs_sub_round (-x)

theorem roundHalfAway_intCast (n : Int) : roundHalfAway n = n := by
  rw [roundHalfAway_eq, ← Int.cast_neg, round_intCast, round_intCast, neg_neg, ite_self]

theorem kPosCan_pos : 0 < kPosCan := by
  norm_num [kPosCan]

/-- Rounding the inverse of a number of increments gives the number back: the product with the factor is exact. -/
theorem canIncrements_canMillimetres (inc : Int) : canIncrements (canMillimetres inc) = inc := by
  rw [canIncrements, canMillimetres, div_mul_cancel₀ _ kPosCan_pos.ne', roundHalfAway_intCast]

/-- A position is off by what its increments are off, over the factor. -/
theorem abs_canMillimetres_canIncrements_sub (mm : Rat) :
    |canMillimetres (canIncrements mm) - mm| ≤ 1 / 2 / kPosCan := by
  have hfactor : canMillimetres (canIncrements mm) - mm = (canIncrements mm - mm * kPosCan) / kPosCan := by
    rw [canMillimetres, sub_div, mul_div_cancel_right₀ _ kPosCan_pos.ne']
  rw [hfactor, abs_div, abs_of_pos kPosCan_pos]
  exact div_le_div_of_nonneg_right (abs_roundHalfAway_sub _) kPosCan_pos.le

/-- 465 mm are 4571136 increments exactly. -/
theorem canIncrements_465 : canIncrements (millimetresOfMetres (465 / 1000)) = 4571136 := by
  have hexact : millimetresOfMetres (465 / 1000) = canMillimetres 4571136 := by
    norm_num [millimetresOfMetres, canMillimetres, kPosCan]
  rw [hexact, canIncrements_canMillimetres]

/-- Settles O60: the increments are off by one half at most, and not at all where the product is an integer. -/
theorem canPositionRoundTrip : Obligations.CanPositionRoundTrip := by
  refine ⟨fun mm => ?_, canIncrements_canMillimetres, ?_⟩
  · have hfactor : (98304 / 10 : Rat) = kPosCan := by
      norm_num [kPosCan]
    rw [hfactor]
    exact abs_canMillimetres_canIncrements_sub mm
  · rw [setHeight, canSetPosition, canIncrements_465]
    rfl

end Sys2Proof.Proofs
end
